-- ==== Sys2Proof/Word.lean ====
section
/-! DEFINITION. The word types of the spec's notation (00_scope.md R6, R8): 32-bit registers and
addresses, bytes of memory, 5-bit register numbers, 16-bit SPR addresses. -/

namespace Sys2Proof

/-- A general register, a special-purpose register or an effective address: 32 bits (R8, R12, R13). -/
abbrev Word := BitVec 32

/-- One byte of memory. -/
abbrev Byte := BitVec 8

/-- The number of a general register as an instruction holds it: 5 bits (R101, R102). -/
abbrev RegNo := BitVec 5

/-- The address of a special-purpose register, and an immediate K: 16 bits (R81, R103). -/
abbrev SprAddr := BitVec 16

end Sys2Proof
end

