-- ==== Sys2Proof/Config.lean ====
section
/-! DEFINITION. `Config`: what one implementation fixes (00_scope.md R4) and the open parameters of
R5, as plain data, and the one free value (`Config.draw`). The types only: the default tables, the
presence predicates and the checks stand in Machine/, where a repair can mend them. -/

namespace Sys2Proof

/-- The 22 special-purpose registers of the chapter (R3, item 1; R15). -/
inductive Spr
  | vr | upr | cpucfgr | dmmucfgr | immucfgr | dccfgr | iccfgr | dcfgr | pccfgr
  | vr2 | avr | evbar | aecr | aesr
  | isr (i : Fin 8)
deriving DecidableEq, Repr

/-- The exceptions of the vector table (60_exceptions.md R152). `range` is the
`ArithmeticException` of R140. -/
inductive ExceptionKind
  | reset | busError | dataPageFault | insnPageFault | tickTimer | alignment | illegalInstruction
  | externalInterrupt | dtlbMiss | itlbMiss | range | systemCall | floatingPoint | trap
deriving DecidableEq, Repr

/-! ### The constants of the read-only registers (10_state.md) -/

/-- Fields of the Version Register (R21). -/
structure VrFields where
  rev : BitVec 6
  uvrp : Bool
  cfg : BitVec 8
  ver : BitVec 8
deriving DecidableEq, Repr

/-- Fields of the Unit Present Register (R26, R27). -/
structure UprFields where
  up : Bool
  dcp : Bool
  icp : Bool
  dmp : Bool
  imp : Bool
  mp : Bool
  dup : Bool
  pcup : Bool
  pmp : Bool
  picp : Bool
  ttp : Bool
  cup : BitVec 8
deriving DecidableEq, Repr

/-- Fields of the CPU Configuration Register (R32). -/
structure CpucfgrFields where
  nsgf : BitVec 4
  cgf : Bool
  ob32s : Bool
  ob64s : Bool
  of32s : Bool
  of64s : Bool
  ov64s : Bool
  nd : Bool
  avrp : Bool
  evbarp : Bool
  isrp : Bool
  aecsrp : Bool
  of64a32s : Bool
deriving DecidableEq, Repr

/-- Fields of DMMUCFGR and of IMMUCFGR (R36, R38). -/
structure MmucfgrFields where
  ntw : BitVec 2
  nts : BitVec 3
  nae : BitVec 3
  cri : Bool
  pri : Bool
  teiri : Bool
  htr : Bool
deriving DecidableEq, Repr

/-- Fields of DCCFGR (R40). -/
structure DccfgrFields where
  ncw : BitVec 3
  ncs : BitVec 4
  bs : Bool
  cws : Bool
  ccri : Bool
  cbiri : Bool
  cbpri : Bool
  cblri : Bool
  cbfri : Bool
  cbwbri : Bool
deriving DecidableEq, Repr

/-- Fields of ICCFGR (R42): no CWS, CBFRI or CBWBRI. -/
structure IccfgrFields where
  ncw : BitVec 3
  ncs : BitVec 4
  bs : Bool
  ccri : Bool
  cbiri : Bool
  cbpri : Bool
  cblri : Bool
deriving DecidableEq, Repr

/-- Fields of DCFGR (R44). -/
structure DcfgrFields where
  ndp : BitVec 3
  wpci : Bool
deriving DecidableEq, Repr

/-- The one field of PCCFGR (R46). -/
structure PccfgrFields where
  npc : BitVec 3
deriving DecidableEq, Repr

/-- Fields of VR2 (R49). -/
structure Vr2Fields where
  cpuid : BitVec 8
  ver : BitVec 24
deriving DecidableEq, Repr

/-- Fields of AVR (R52). -/
structure AvrFields where
  maj : BitVec 8
  min : BitVec 8
  rev : BitVec 8
deriving DecidableEq, Repr

/-! ### LAYOUT (R18): the lowest bit of every field, one structure per register -/

structure VrLayout where
  rev : Nat
  uvrp : Nat
  cfg : Nat
  ver : Nat
deriving DecidableEq, Repr

structure UprLayout where
  up : Nat
  dcp : Nat
  icp : Nat
  dmp : Nat
  imp : Nat
  mp : Nat
  dup : Nat
  pcup : Nat
  pmp : Nat
  picp : Nat
  ttp : Nat
  cup : Nat
deriving DecidableEq, Repr

structure CpucfgrLayout where
  nsgf : Nat
  cgf : Nat
  ob32s : Nat
  ob64s : Nat
  of32s : Nat
  of64s : Nat
  ov64s : Nat
  nd : Nat
  avrp : Nat
  evbarp : Nat
  isrp : Nat
  aecsrp : Nat
  of64a32s : Nat
deriving DecidableEq, Repr

structure MmucfgrLayout where
  ntw : Nat
  nts : Nat
  nae : Nat
  cri : Nat
  pri : Nat
  teiri : Nat
  htr : Nat
deriving DecidableEq, Repr

structure DccfgrLayout where
  ncw : Nat
  ncs : Nat
  bs : Nat
  cws : Nat
  ccri : Nat
  cbiri : Nat
  cbpri : Nat
  cblri : Nat
  cbfri : Nat
  cbwbri : Nat
deriving DecidableEq, Repr

structure IccfgrLayout where
  ncw : Nat
  ncs : Nat
  bs : Nat
  ccri : Nat
  cbiri : Nat
  cbpri : Nat
  cblri : Nat
deriving DecidableEq, Repr

structure DcfgrLayout where
  ndp : Nat
  wpci : Nat
deriving DecidableEq, Repr

structure Vr2Layout where
  cpuid : Nat
  ver : Nat
deriving DecidableEq, Repr

structure AvrLayout where
  maj : Nat
  min : Nat
  rev : Nat
deriving DecidableEq, Repr

/-- The seven one-bit fields that AECR and AESR share (R59, R63). -/
structure ArithLayout where
  cyadde : Nat
  ovadde : Nat
  cymule : Nat
  ovmule : Nat
  dbze : Nat
  cymacadde : Nat
  ovmacadde : Nat
deriving DecidableEq, Repr

/-- `LAYOUT` (R5, R18). DMMUCFGR and IMMUCFGR share one table, and so do AECR and AESR. -/
structure Layout where
  vr : VrLayout
  upr : UprLayout
  cpucfgr : CpucfgrLayout
  mmucfgr : MmucfgrLayout
  dccfgr : DccfgrLayout
  iccfgr : IccfgrLayout
  dcfgr : DcfgrLayout
  pccfgrNpc : Nat
  vr2 : Vr2Layout
  avr : AvrLayout
  evbarEvba : Nat
  arith : ArithLayout
deriving DecidableEq, Repr

/-- `SPRNUM` (R17): the SPR address of each register, and of SR, which is interface only. -/
structure SprNum where
  vr : SprAddr
  upr : SprAddr
  cpucfgr : SprAddr
  dmmucfgr : SprAddr
  immucfgr : SprAddr
  dccfgr : SprAddr
  iccfgr : SprAddr
  dcfgr : SprAddr
  pccfgr : SprAddr
  vr2 : SprAddr
  avr : SprAddr
  evbar : SprAddr
  aecr : SprAddr
  aesr : SprAddr
  sr : SprAddr
  isr : Vector SprAddr 8
deriving DecidableEq, Repr

/-- `VECTOR_OFFSET` (R152): the offset of each exception inside the vector area. -/
structure VectorOffsets where
  reset : Word
  busError : Word
  dataPageFault : Word
  insnPageFault : Word
  tickTimer : Word
  alignment : Word
  illegalInstruction : Word
  externalInterrupt : Word
  dtlbMiss : Word
  itlbMiss : Word
  range : Word
  systemCall : Word
  floatingPoint : Word
  trap : Word
deriving DecidableEq, Repr

/-! ### The policies of R5 -/

/-- `XLEN` (D1): the width of a general register. -/
inductive Xlen
  | x32
  | x64
deriving DecidableEq, Repr

/-- `USER_SPR_POLICY` (R122): an access to a register of the chapter with SR.SM = 0. -/
inductive UserSprPolicy
  | fault
  | illegalInstruction
  | refuse
deriving DecidableEq, Repr

/-- `ABSENT_SPR_POLICY` (R123): an access to a register whose presence predicate is false. -/
inductive AbsentSprPolicy
  | refuse
  | readZero
  | draw
deriving DecidableEq, Repr

/-- `HIGH_ADDR_POLICY` (R126): bits 31..16 of the computed SPR address are not all zero. -/
inductive HighAddrPolicy
  | refuse
  | truncate
deriving DecidableEq, Repr

/-- `RO_WRITE_POLICY` (R125): `l.mtspr` to a read-only register. -/
inductive RoWritePolicy
  | ignore
  | refuse
deriving DecidableEq, Repr

/-- `R0_POLICY` (R128): a result whose destination is general register 0. -/
inductive R0Policy
  | refuse
  | write
  | discard
deriving DecidableEq, Repr

/-- `RESULT_ON_EXC` (R145): whether an arithmetic instruction that raises writes its result. -/
inductive ResultOnExc
  | unknown
  | written
  | unwritten
deriving DecidableEq, Repr

/-- An SPR access in a delay slot of an ND = 0 implementation (R190): `execute` gives it the effect
R190 states (the registers as in R120 and R121, the next pc the jump's target), `refuse` is the
treatment of 93_implementation_defined.md I41. -/
inductive DelaySlotPolicy
  | execute
  | refuse
deriving DecidableEq, Repr

/-- `TrapEntry` (R160, D26): what exception entry does beyond the target address and supervisor mode.
`family` is the OpenRISC 1000 entry R160 describes, `clearsOve` saying whether it clears OVE
(architecture 1.1 and later do); `leftOpen` leaves all of it open (R197). -/
inductive TrapEntry
  | family (clearsOve : Bool)
  | leftOpen
deriving DecidableEq, Repr

/-- `BYTE_ORDER` (R83): how the four bytes of an instruction word lie in memory. -/
inductive ByteOrder
  | big
  | little
deriving DecidableEq, Repr

/-- The open parameters that choose an outcome (R5). `noAecrMask` is `NO_AECR_MASK` (R147),
`none` where it is not supplied. -/
structure Policies where
  userSpr : UserSprPolicy
  absentSpr : AbsentSprPolicy
  highAddr : HighAddrPolicy
  roWrite : RoWritePolicy
  r0 : R0Policy
  resultOnExc : ResultOnExc
  delaySlot : DelaySlotPolicy
  trapEntry : TrapEntry
  noAecrMask : Option (BitVec 7)
deriving DecidableEq, Repr

/-- One implementation (R4) and the open parameters (R5). `aecrReset` and `aesrReset` are `none`
where they are unspecified (R182); `isrValue` holds `none` for a register whose value the
implementation does not supply (R66); `srReset` is the start value of SR (R183). -/
structure Config where
  vr : VrFields
  upr : UprFields
  cpucfgr : CpucfgrFields
  dmmucfgr : MmucfgrFields
  immucfgr : MmucfgrFields
  dccfgr : DccfgrFields
  iccfgr : IccfgrFields
  dcfgr : DcfgrFields
  pccfgr : PccfgrFields
  vr2 : Vr2Fields
  avr : AvrFields
  evbaReset : BitVec 19
  aecrReset : Option (BitVec 7)
  aesrReset : Option (BitVec 7)
  srReset : Word
  isrValue : Vector (Option Word) 8
  xlen : Xlen
  ngpr : Nat
  layout : Layout
  sprNum : SprNum
  ephOffset : Word
  vectorOffset : VectorOffsets
  byteOrder : ByteOrder
  policies : Policies
deriving DecidableEq, Repr

/-- `draw` (00_scope.md R7): the values the spec leaves open. Nothing is known of it; the machine
applies it to a counter (`State.draws`) that moves at every use. -/
opaque Config.draw : Nat → Word

/-- The checks a `Config` passes (R70 to R75, D1, D2, D3), each under its own name. -/
inductive ConfigDefect
  | verIllegal
  | cfgIllegal
  | uvrpInconsistent
  | rangesIllegal
  | uprInconsistent
  | ngprInconsistent
  | xlen64
  | layoutOverlaps
  | sprNumNotInjective
deriving DecidableEq, Repr

end Sys2Proof
end

