-- ==== Sys2Proof/Machine/Bits.lean ====
section
/-! DEFINITION. Bit-field and byte-order helpers: reading and placing a field, one flag of a word, and
a word's four bytes (00_scope.md R6, 20_memory.md R83). -/

namespace Sys2Proof.Machine

/-- `x` at bit `lo` of a word, zeros elsewhere: one field's share of `image(R)` (R19). -/
def placeBits {n : Nat} (lo : Nat) (x : BitVec n) : Word := x.setWidth 32 <<< lo

/-- A one-bit field at bit `lo`. -/
def placeFlag (lo : Nat) (b : Bool) : Word := placeBits lo (BitVec.ofBool b)

/-- The `n` bits of `v` from bit `lo` up: `v[lo+n-1:lo]` (R6). -/
def takeBits (lo n : Nat) (v : Word) : BitVec n := v.extractLsb' lo n

/-- `v` with bit `i` set to `b`. -/
def setFlag (v : Word) (i : Nat) (b : Bool) : Word :=
  if b then v ||| placeFlag i true else v &&& ~~~(placeFlag i true)

/-- Seven flags as a number, the first argument bit 0. -/
def sevenBits (b0 b1 b2 b3 b4 b5 b6 : Bool) : BitVec 7 :=
  BitVec.ofBool b6 ++ BitVec.ofBool b5 ++ BitVec.ofBool b4 ++ BitVec.ofBool b3 ++ BitVec.ofBool b2 ++
    BitVec.ofBool b1 ++ BitVec.ofBool b0

/-- The four bytes of a word, the one at the lowest address first (R83). -/
def wordBytes (order : ByteOrder) (w : Word) : List Byte :=
  match order with
  | .big => [takeBits 24 8 w, takeBits 16 8 w, takeBits 8 8 w, takeBits 0 8 w]
  | .little => [takeBits 0 8 w, takeBits 8 8 w, takeBits 16 8 w, takeBits 24 8 w]

/-- The word whose four bytes are these, the one at the lowest address first (R83, R100). -/
def bytesWord (order : ByteOrder) (b0 b1 b2 b3 : Byte) : Word :=
  match order with
  | .big => b0 ++ b1 ++ b2 ++ b3
  | .little => b3 ++ b2 ++ b1 ++ b0

end Sys2Proof.Machine
end

