-- ==== Sys2Proof/Machine/Tables.lean ====
section
/-! DEFINITION. The default tables of the open parameters (10_state.md R17, R18; 60_exceptions.md R150,
R152; 00_scope.md R5) and the two example implementations of 95_test_vectors.md section 2.1. All
positions, numbers and offsets are those rules' tables, which they mark as general knowledge: UNVERIFIED,
unsafe (log 3, 4, 22). -/

namespace Sys2Proof.Machine

/-- `LAYOUT` as R18 tabulates it. -/
def defaultLayout : Layout where
  vr := { rev := 0, uvrp := 6, cfg := 16, ver := 24 }
  upr := { up := 0, dcp := 1, icp := 2, dmp := 3, imp := 4, mp := 5, dup := 6, pcup := 7,
           picp := 8, pmp := 9, ttp := 10, cup := 24 }
  cpucfgr := { nsgf := 0, cgf := 4, ob32s := 5, ob64s := 6, of32s := 7, of64s := 8, ov64s := 9,
               nd := 10, avrp := 11, evbarp := 12, isrp := 13, aecsrp := 14, of64a32s := 15 }
  mmucfgr := { ntw := 0, nts := 2, nae := 5, cri := 8, pri := 9, teiri := 10, htr := 11 }
  dccfgr := { ncw := 0, ncs := 3, bs := 7, cws := 8, ccri := 9, cbiri := 10, cbpri := 11,
              cblri := 12, cbfri := 13, cbwbri := 14 }
  iccfgr := { ncw := 0, ncs := 3, bs := 7, ccri := 9, cbiri := 10, cbpri := 11, cblri := 12 }
  dcfgr := { ndp := 0, wpci := 3 }
  pccfgrNpc := 0
  vr2 := { cpuid := 24, ver := 0 }
  avr := { maj := 24, min := 16, rev := 8 }
  evbarEvba := 13
  arith := { cyadde := 0, ovadde := 1, cymule := 2, ovmule := 3, dbze := 4, cymacadde := 5,
             ovmacadde := 6 }

/-- `SPRNUM` as R17 tabulates it: group 0, ISRi at 0x0015 + i, SR at 0x0011. -/
def defaultSprNum : SprNum where
  vr := 0
  upr := 1
  cpucfgr := 2
  dmmucfgr := 3
  immucfgr := 4
  dccfgr := 5
  iccfgr := 6
  dcfgr := 7
  pccfgr := 8
  vr2 := 9
  avr := 10
  evbar := 11
  aecr := 12
  aesr := 13
  sr := 17
  isr := #v[21, 22, 23, 24, 25, 26, 27, 28]

/-- `VECTOR_OFFSET` as R152 tabulates it. -/
def defaultVectorOffsets : VectorOffsets where
  reset := 0x100
  busError := 0x200
  dataPageFault := 0x300
  insnPageFault := 0x400
  tickTimer := 0x500
  alignment := 0x600
  illegalInstruction := 0x700
  externalInterrupt := 0x800
  dtlbMiss := 0x900
  itlbMiss := 0xA00
  range := 0xB00
  systemCall := 0xC00
  floatingPoint := 0xD00
  trap := 0xE00

/-- `EPH_OFFSET`'s default (R150). -/
def defaultEphOffset : Word := 0xF0000000

/-- The defaults of 00_scope.md R5, the spec's own choice for each parameter. `NO_AECR_MASK` has none
(R147), and the treatment of an SPR access in a delay slot is the refusal of I41. -/
def specPolicies : Policies where
  userSpr := .fault
  absentSpr := .refuse
  highAddr := .refuse
  roWrite := .ignore
  r0 := .refuse
  resultOnExc := .unknown
  delaySlot := .refuse
  trapEntry := .family true
  noAecrMask := none

/-- The values under which an access has an effect wherever the spec lists an effect for it: the
illegal-instruction exception in user mode (R122), a drawn value from an absent register (R123), the low
16 bits of an SPR address (R126), a write of r0 (R128), the effect R190 states in a delay slot.
DESIGN CHOICE, unsafe (log 2). -/
def executingPolicies : Policies where
  userSpr := .illegalInstruction
  absentSpr := .draw
  highAddr := .truncate
  roWrite := .ignore
  r0 := .write
  resultOnExc := .unknown
  delaySlot := .execute
  trapEntry := .family true
  noAecrMask := none

/-- EX1 of 95_test_vectors.md: a small 32-bit implementation with every optional register but the ISRs.
AECR_RESET and AESR_RESET are the family's 0 (PRESUMED, unsafe, log 7). -/
def exampleOne (p : Policies) : Config where
  vr := { rev := 8, uvrp := true, cfg := 0, ver := 0x12 }
  upr := { up := true, dcp := true, icp := true, dmp := true, imp := true, mp := true, dup := false,
           pcup := false, pmp := false, picp := true, ttp := true, cup := 0 }
  cpucfgr := { nsgf := 0, cgf := false, ob32s := true, ob64s := false, of32s := false, of64s := false,
               ov64s := false, nd := false, avrp := true, evbarp := true, isrp := false,
               aecsrp := true, of64a32s := false }
  dmmucfgr := { ntw := 0, nts := 6, nae := 0, cri := false, pri := false, teiri := true, htr := false }
  immucfgr := { ntw := 0, nts := 6, nae := 0, cri := false, pri := false, teiri := true, htr := false }
  dccfgr := { ncw := 1, ncs := 8, bs := true, cws := false, ccri := true, cbiri := true,
              cbpri := false, cblri := false, cbfri := true, cbwbri := false }
  iccfgr := { ncw := 1, ncs := 8, bs := true, ccri := true, cbiri := true, cbpri := false,
              cblri := false }
  dcfgr := { ndp := 0, wpci := false }
  pccfgr := { npc := 0 }
  vr2 := { cpuid := 1, ver := 0x000501 }
  avr := { maj := 1, min := 3, rev := 0 }
  evbaReset := 0
  aecrReset := some 0
  aesrReset := some 0
  srReset := 0x00008001
  isrValue := #v[none, none, none, none, none, none, none, none]
  xlen := .x32
  ngpr := 32
  layout := defaultLayout
  sprNum := defaultSprNum
  ephOffset := defaultEphOffset
  vectorOffset := defaultVectorOffsets
  byteOrder := .big
  policies := p

/-- EX2 of 95_test_vectors.md: no configuration registers, UPR absent. -/
def exampleTwo (p : Policies) : Config :=
  { exampleOne p with
    vr := { rev := 1, uvrp := false, cfg := 60, ver := 0x10 }
    upr := { up := false, dcp := false, icp := false, dmp := false, imp := false, mp := false,
             dup := false, pcup := false, pmp := false, picp := false, ttp := false, cup := 0 } }

/-- The implementation that `State.reset` is the reset of: EX1 with `executingPolicies`.
DESIGN CHOICE, unsafe (log 1, 2): claims quantify over every `Config`. -/
def referenceConfig : Config := exampleOne executingPolicies

end Sys2Proof.Machine
end

