-- ==== Sys2Proof/Machine/Presence.lean ====
section
/-! DEFINITION. What the constants of an implementation announce: which registers and which general
registers exist (10_state.md R22, R68, R12), the SPR address map (R17), and the derived quantities of
the configuration registers (R33 to R47). -/

namespace Sys2Proof.Machine

/-- `CFGR_IMPL` (R22): configuration registers exist exactly when VR.CFG is below 50. -/
def cfgrImpl (c : Config) : Bool := c.vr.cfg.toNat < 50

/-- `present(R)` (R68). UPR is always present: it reads 0 when its UP bit is 0 (R28). -/
def present (c : Config) : Spr → Bool
  | .vr => true
  | .upr => true
  | .cpucfgr => cfgrImpl c
  | .dmmucfgr => cfgrImpl c
  | .immucfgr => cfgrImpl c
  | .dccfgr => cfgrImpl c
  | .iccfgr => cfgrImpl c
  | .dcfgr => cfgrImpl c
  | .pccfgr => cfgrImpl c
  | .vr2 => c.vr.uvrp
  | .avr => cfgrImpl c && c.cpucfgr.avrp
  | .evbar => cfgrImpl c && c.cpucfgr.evbarp
  | .aecr => cfgrImpl c && c.cpucfgr.aecsrp
  | .aesr => cfgrImpl c && c.cpucfgr.aecsrp
  | .isr _ => cfgrImpl c && c.cpucfgr.isrp

/-- General register `r` exists: its number is below `NGPR` (R12, R104). -/
def hasGpr (c : Config) (r : RegNo) : Bool := r.toNat < c.ngpr

/-- The eleven read-only constant registers (R11, R15). -/
def readOnly : Spr → Bool
  | .vr | .upr | .cpucfgr | .dmmucfgr | .immucfgr | .dccfgr | .iccfgr | .dcfgr | .pccfgr | .vr2
  | .avr => true
  | .evbar | .aecr | .aesr | .isr _ => false

/-- The address `SPRNUM` gives register `r` (R17). -/
def sprAddrOf (t : SprNum) : Spr → SprAddr
  | .vr => t.vr
  | .upr => t.upr
  | .cpucfgr => t.cpucfgr
  | .dmmucfgr => t.dmmucfgr
  | .immucfgr => t.immucfgr
  | .dccfgr => t.dccfgr
  | .iccfgr => t.iccfgr
  | .dcfgr => t.dcfgr
  | .pccfgr => t.pccfgr
  | .vr2 => t.vr2
  | .avr => t.avr
  | .evbar => t.evbar
  | .aecr => t.aecr
  | .aesr => t.aesr
  | .isr i => t.isr[i]

/-- The 22 registers of the chapter, in the source's order. -/
def allSprs : List Spr :=
  [.vr, .upr, .cpucfgr, .dmmucfgr, .immucfgr, .dccfgr, .iccfgr, .dcfgr, .pccfgr, .vr2, .avr, .evbar,
   .aecr, .aesr, .isr 0, .isr 1, .isr 2, .isr 3, .isr 4, .isr 5, .isr 6, .isr 7]

/-- `reg_at(a)` (R120, R127): the register of the chapter at SPR address `a`, if any. SR is interface
only, so its address gives none. -/
def regAt (t : SprNum) (a : SprAddr) : Option Spr := allSprs.find? fun r => sprAddrOf t r == a

/-- `group` of an SPR address (R81): bits 15:11. -/
def sprGroup (a : SprAddr) : BitVec 5 := a.extractLsb' 11 5

/-- `index` of an SPR address (R81): bits 10:0. -/
def sprIndex (a : SprAddr) : BitVec 11 := a.extractLsb' 0 11

/-! ### Derived quantities

Each is defined only where the unit is present and its configuration register exists (R74, D27); the
elided rows of the source's value lists are regular progressions (D24). -/

/-- A quantity of a unit that is announced by `unit` in UPR and sized by a configuration register. -/
def whenUnit (c : Config) (unit : Bool) (n : Nat) : Option Nat :=
  if cfgrImpl c && unit then some n else none

/-- Number of shadow general-register files (R33). -/
def shadowGprFiles (c : Config) : Option Nat := whenUnit c true c.cpucfgr.nsgf.toNat

/-- Ways of an MMU's TLB (R37, R39). -/
def tlbWays (m : MmucfgrFields) : Nat := m.ntw.toNat + 1
/-- Sets of an MMU's TLB: entries per way (R37, R39). -/
def tlbSets (m : MmucfgrFields) : Nat := 2 ^ m.nts.toNat
/-- Entries of an MMU's TLB (R37, R39). -/
def tlbEntries (m : MmucfgrFields) : Nat := tlbWays m * tlbSets m
/-- Entries of an MMU's ATB, 0 where it does not exist (R37, R39). -/
def atbEntries (m : MmucfgrFields) : Nat := m.nae.toNat

def dtlbWays (c : Config) : Option Nat := whenUnit c c.upr.dmp (tlbWays c.dmmucfgr)
def dtlbSets (c : Config) : Option Nat := whenUnit c c.upr.dmp (tlbSets c.dmmucfgr)
def dtlbEntries (c : Config) : Option Nat := whenUnit c c.upr.dmp (tlbEntries c.dmmucfgr)
def datbEntries (c : Config) : Option Nat := whenUnit c c.upr.dmp (atbEntries c.dmmucfgr)
def itlbWays (c : Config) : Option Nat := whenUnit c c.upr.imp (tlbWays c.immucfgr)
def itlbSets (c : Config) : Option Nat := whenUnit c c.upr.imp (tlbSets c.immucfgr)
def itlbEntries (c : Config) : Option Nat := whenUnit c c.upr.imp (tlbEntries c.immucfgr)
def iatbEntries (c : Config) : Option Nat := whenUnit c c.upr.imp (atbEntries c.immucfgr)

/-- Ways of a cache (R41, R43). -/
def cacheWays (ncw : BitVec 3) : Nat := 2 ^ ncw.toNat
/-- Sets of a cache (R41, R43). -/
def cacheSets (ncs : BitVec 4) : Nat := 2 ^ ncs.toNat
/-- Bytes of a cache block (R41, R43). -/
def cacheBlockBytes (bs : Bool) : Nat := if bs then 32 else 16
/-- Bytes of a cache (R41, R43). -/
def cacheBytes (ncw : BitVec 3) (ncs : BitVec 4) (bs : Bool) : Nat :=
  cacheWays ncw * cacheSets ncs * cacheBlockBytes bs

def dcWays (c : Config) : Option Nat := whenUnit c c.upr.dcp (cacheWays c.dccfgr.ncw)
def dcSets (c : Config) : Option Nat := whenUnit c c.upr.dcp (cacheSets c.dccfgr.ncs)
def dcBlockBytes (c : Config) : Option Nat := whenUnit c c.upr.dcp (cacheBlockBytes c.dccfgr.bs)
def dcBytes (c : Config) : Option Nat :=
  whenUnit c c.upr.dcp (cacheBytes c.dccfgr.ncw c.dccfgr.ncs c.dccfgr.bs)
def icWays (c : Config) : Option Nat := whenUnit c c.upr.icp (cacheWays c.iccfgr.ncw)
def icSets (c : Config) : Option Nat := whenUnit c c.upr.icp (cacheSets c.iccfgr.ncs)
def icBlockBytes (c : Config) : Option Nat := whenUnit c c.upr.icp (cacheBlockBytes c.iccfgr.bs)
def icBytes (c : Config) : Option Nat :=
  whenUnit c c.upr.icp (cacheBytes c.iccfgr.ncw c.iccfgr.ncs c.iccfgr.bs)

/-- DCR/DVR pairs of the debug unit (R45). -/
def debugPairs (c : Config) : Option Nat := whenUnit c c.upr.dup (c.dcfgr.ndp.toNat + 1)
/-- Performance counters (R47). -/
def perfCounters (c : Config) : Option Nat := whenUnit c c.upr.pcup (c.pccfgr.npc.toNat + 1)

/-- Two versions of one implementation, the second newer (R50): the same CPUID, and VER larger as an
unsigned 24-bit number. A convention about a family of `Config`s; no step reads it. -/
def newerVersion (old new : Config) : Bool :=
  old.vr2.cpuid == new.vr2.cpuid && old.vr2.ver.toNat < new.vr2.ver.toNat

end Sys2Proof.Machine
end

