-- ==== Sys2Proof/Machine/Checks.lean ====
section
/-! DEFINITION. The named checks of a `Config` (10_state.md R70 to R75; 92_eei_decisions.md D1, D2, D3,
D22) and the first one it fails. -/

namespace Sys2Proof.Machine

/-- `ver_legal` (R70): VR.VER lies in 0x10..0x19. -/
def verLegal (c : Config) : Bool := 0x10 ≤ c.vr.ver.toNat && c.vr.ver.toNat ≤ 0x19

/-- `cfg_legal` (R71): VR.CFG is at most 99. -/
def cfgLegal (c : Config) : Bool := c.vr.cfg.toNat ≤ 99

/-- `uvrp_consistent` (R72): UVRP announces VR2 and AVR, so both are present. -/
def uvrpConsistent (c : Config) : Bool := !c.vr.uvrp || (present c .vr2 && present c .avr)

/-- `ranges_legal` (R73): the geometry fields of a present unit hold described values. -/
def rangesLegal (c : Config) : Bool :=
  (!c.upr.dmp || c.dmmucfgr.nae.toNat ≤ 4) &&
  (!c.upr.imp || c.immucfgr.nae.toNat ≤ 4) &&
  (!c.upr.dcp || (c.dccfgr.ncw.toNat ≤ 5 && c.dccfgr.ncs.toNat ≤ 10)) &&
  (!c.upr.icp || (c.iccfgr.ncw.toNat ≤ 5 && c.iccfgr.ncs.toNat ≤ 10))

/-- `upr_consistent` (R75): with UP = 0 every other UPR field is 0. -/
def uprConsistent (c : Config) : Bool :=
  c.upr.up ||
    (!c.upr.dcp && !c.upr.icp && !c.upr.dmp && !c.upr.imp && !c.upr.mp && !c.upr.dup && !c.upr.pcup &&
     !c.upr.pmp && !c.upr.picp && !c.upr.ttp && c.upr.cup == 0)

/-- `NGPR` against CPUCFGR.CGF (R12): 32 when CGF is 0, below 32 when it is 1. -/
def ngprConsistent (c : Config) : Bool := if c.cpucfgr.cgf then c.ngpr < 32 else c.ngpr == 32

/-- A field of `width` bits from bit `lo` and one from `lo'`: no bit in common. -/
def spansApart (s t : Nat × Nat) : Bool := s.1 + s.2 ≤ t.1 || t.1 + t.2 ≤ s.1

/-- Every field (lowest bit, width) lies in 32 bits and no two overlap. -/
def spansFit : List (Nat × Nat) → Bool
  | [] => true
  | s :: rest => s.1 + s.2 ≤ 32 && rest.all (spansApart s) && spansFit rest

/-- The fields of each register in a `Layout`, lowest bit and width (R18). -/
def layoutSpans (l : Layout) : List (List (Nat × Nat)) :=
  [[(l.vr.rev, 6), (l.vr.uvrp, 1), (l.vr.cfg, 8), (l.vr.ver, 8)],
   [(l.upr.up, 1), (l.upr.dcp, 1), (l.upr.icp, 1), (l.upr.dmp, 1), (l.upr.imp, 1), (l.upr.mp, 1),
    (l.upr.dup, 1), (l.upr.pcup, 1), (l.upr.pmp, 1), (l.upr.picp, 1), (l.upr.ttp, 1), (l.upr.cup, 8)],
   [(l.cpucfgr.nsgf, 4), (l.cpucfgr.cgf, 1), (l.cpucfgr.ob32s, 1), (l.cpucfgr.ob64s, 1),
    (l.cpucfgr.of32s, 1), (l.cpucfgr.of64s, 1), (l.cpucfgr.ov64s, 1), (l.cpucfgr.nd, 1),
    (l.cpucfgr.avrp, 1), (l.cpucfgr.evbarp, 1), (l.cpucfgr.isrp, 1), (l.cpucfgr.aecsrp, 1),
    (l.cpucfgr.of64a32s, 1)],
   [(l.mmucfgr.ntw, 2), (l.mmucfgr.nts, 3), (l.mmucfgr.nae, 3), (l.mmucfgr.cri, 1), (l.mmucfgr.pri, 1),
    (l.mmucfgr.teiri, 1), (l.mmucfgr.htr, 1)],
   [(l.dccfgr.ncw, 3), (l.dccfgr.ncs, 4), (l.dccfgr.bs, 1), (l.dccfgr.cws, 1), (l.dccfgr.ccri, 1),
    (l.dccfgr.cbiri, 1), (l.dccfgr.cbpri, 1), (l.dccfgr.cblri, 1), (l.dccfgr.cbfri, 1),
    (l.dccfgr.cbwbri, 1)],
   [(l.iccfgr.ncw, 3), (l.iccfgr.ncs, 4), (l.iccfgr.bs, 1), (l.iccfgr.ccri, 1), (l.iccfgr.cbiri, 1),
    (l.iccfgr.cbpri, 1), (l.iccfgr.cblri, 1)],
   [(l.dcfgr.ndp, 3), (l.dcfgr.wpci, 1)],
   [(l.pccfgrNpc, 3)],
   [(l.vr2.cpuid, 8), (l.vr2.ver, 24)],
   [(l.avr.maj, 8), (l.avr.min, 8), (l.avr.rev, 8)],
   [(l.evbarEvba, 19)],
   [(l.arith.cyadde, 1), (l.arith.ovadde, 1), (l.arith.cymule, 1), (l.arith.ovmule, 1),
    (l.arith.dbze, 1), (l.arith.cymacadde, 1), (l.arith.ovmacadde, 1)]]

/-- `LAYOUT` places every field of a register inside its 32 bits, apart from the others (R19, D2). -/
def layoutFits (l : Layout) : Bool := (layoutSpans l).all spansFit

/-- No two addresses of the list are equal. -/
def allApart : List SprAddr → Bool
  | [] => true
  | a :: rest => !rest.contains a && allApart rest

/-- `SPRNUM` is injective (D3), and SR's own address is none of them (R127). -/
def sprNumInjective (t : SprNum) : Bool := allApart (t.sr :: allSprs.map (sprAddrOf t))

/-- The first check `c` fails, `none` where it is well formed (R4, D22). XLEN = 64 is refused here
(D1, I43). -/
def configDefect (c : Config) : Option ConfigDefect :=
  if !verLegal c then some .verIllegal
  else if !cfgLegal c then some .cfgIllegal
  else if !uvrpConsistent c then some .uvrpInconsistent
  else if !rangesLegal c then some .rangesIllegal
  else if !uprConsistent c then some .uprInconsistent
  else if !ngprConsistent c then some .ngprInconsistent
  else if c.xlen == .x64 then some .xlen64
  else if !layoutFits c.layout then some .layoutOverlaps
  else if !sprNumInjective c.sprNum then some .sprNumNotInjective
  else none

end Sys2Proof.Machine
end

