-- ==== Sys2Proof/Syntax.lean ====
section
/-! DEFINITION. The instructions: one constructor for each row of spec/opcode_table.json
(30_encoding.md R105). -/

namespace Sys2Proof

/-- The two instructions of the spec.
`mfspr d a k` is `l.mfspr rD,rA,K` (R101, R120); `mtspr a b k` is `l.mtspr rA,rB,K` (R102, R121). -/
inductive Instr
  | mfspr (d a : RegNo) (k : SprAddr)
  | mtspr (a b : RegNo) (k : SprAddr)
deriving DecidableEq, Repr

end Sys2Proof
end

