-- ==== Sys2Proof/WellFormed.lean ====
section
/-! DEFINITION. Well-formedness. An implementation is well formed when it passes every check of
10_state.md R70 to R75 (Machine/Checks.lean); an instruction is well formed on it when its register
fields name registers that exist (30_encoding.md R104). The formats themselves reserve nothing (R101,
R102, R106): every value of every field is encodable, which the fields' types say. -/

namespace Sys2Proof

/-- The implementation passes every check: the model is defined on it (R4, D22). -/
def Config.wellFormed (c : Config) : Bool := Machine.configDefect c == none

/-- The general registers an instruction names. -/
def Instr.registers : Instr → List RegNo
  | .mfspr d a _ => [d, a]
  | .mtspr a b _ => [a, b]

/-- Every register field names one of the `NGPR` registers (R104). -/
def Instr.wellFormed (c : Config) (i : Instr) : Bool := i.registers.all (Machine.hasGpr c)

end Sys2Proof
end

