-- ==== Sys2Proof/Decode.lean ====
section
/-! DEFINITION. Decoding an instruction word and the encoder (30_encoding.md R100 to R106). The bit
patterns are those rules', which mark them as general knowledge: UNVERIFIED, unsafe (log 5). -/

namespace Sys2Proof

open Sys2Proof.Machine

/-- Why bytes are not one of the two instructions: `notSpecified` is the verdict R105 names (another
instruction of the architecture, or none: the spec does not know), `notOneWord` says that there are not
the four bytes of one word (R100). -/
inductive DecodeReject
  | notSpecified
  | notOneWord
deriving DecidableEq, Repr

/-- What the decoder answers: an instruction, or a rejection by name. -/
inductive Decoded
  | insn (i : Instr)
  | rejected (why : DecodeReject)
deriving DecidableEq, Repr

/-- The major opcode: bits 31:26 (R100). -/
def majorOpcode (w : Word) : BitVec 6 := takeBits 26 6 w

/-- The major opcode of `l.mfspr` (R101). -/
def opMfspr : BitVec 6 := 0x2D

/-- The major opcode of `l.mtspr` (R102). -/
def opMtspr : BitVec 6 := 0x30

/-- The instruction of a word. MFSPR: D 25:21, A 20:16, K 15:0 (R101). MTSPR: K[15:11] 25:21, A 20:16,
B 15:11, K[10:0] 10:0 (R102, R103). Every other major opcode is not specified (R105). -/
def decode (w : Word) : Decoded :=
  if majorOpcode w = opMfspr then
    .insn (.mfspr (takeBits 21 5 w) (takeBits 16 5 w) (takeBits 0 16 w))
  else if majorOpcode w = opMtspr then
    .insn (.mtspr (takeBits 16 5 w) (takeBits 11 5 w) (takeBits 21 5 w ++ takeBits 0 11 w))
  else .rejected .notSpecified

/-- The instruction of the bytes at an address, the byte at the lowest address first (R100). -/
def decodeBytes (order : ByteOrder) : List Byte → Decoded
  | [b0, b1, b2, b3] => decode (bytesWord order b0 b1 b2 b3)
  | _ => .rejected .notOneWord

/-- The instruction, where the decoder gives one. -/
def Decoded.toOption : Decoded → Option Instr
  | .insn i => some i
  | .rejected _ => none

/-- The decoder on a word of spec/opcode_table.json: `w`'s low `nbits` bits, every bit above them 0,
laid out most significant byte first (R83, R100). An instruction is one 32-bit word. -/
def decodeTableWord (nbits w : Nat) : Option Instr :=
  (decodeBytes .big (wordBytes .big (BitVec.ofNat 32 (w % 2 ^ nbits)))).toOption

/-- The word of an instruction, from the same formats (R101, R102, R103). -/
def encode : Instr → Word
  | .mfspr d a k => opMfspr ++ d ++ a ++ k
  | .mtspr a b k => opMtspr ++ takeBits 11 5 (k.setWidth 32) ++ a ++ b ++ takeBits 0 11 (k.setWidth 32)

end Sys2Proof
end

