-- ==== Sys2Proof/Machine/Sr.lean ====
section
/-! DEFINITION. The supervision register SR: the places of its fields (10_state.md R14). The layout is
R14's, which marks it as general knowledge: UNVERIFIED, unsafe (log 19). -/

namespace Sys2Proof.Machine

/-- Supervisor mode. -/
def srSM : Nat := 0
/-- Tick timer exception enable. -/
def srTEE : Nat := 1
/-- Interrupt exception enable. -/
def srIEE : Nat := 2
/-- Data cache enable. -/
def srDCE : Nat := 3
/-- Instruction cache enable. -/
def srICE : Nat := 4
/-- Data MMU enable. -/
def srDME : Nat := 5
/-- Instruction MMU enable. -/
def srIME : Nat := 6
/-- Little-endian enable. -/
def srLEE : Nat := 7
/-- Context ID enable. -/
def srCE : Nat := 8
/-- The branch flag. -/
def srF : Nat := 9
/-- The carry flag. -/
def srCY : Nat := 10
/-- The overflow flag. -/
def srOV : Nat := 11
/-- Overflow exception enable: arithmetic conditions may raise (R143). -/
def srOVE : Nat := 12
/-- Delay-slot exception. -/
def srDSX : Nat := 13
/-- Exception prefix high: the vectors move by EPH_OFFSET (R150). -/
def srEPH : Nat := 14
/-- Fixed one: reads 1. -/
def srFO : Nat := 15
/-- SPRs user-mode read access: no rule of the spec reads it (R122). -/
def srSUMRA : Nat := 16
/-- Context ID, 4 bits from this one. -/
def srCID : Nat := 28

/-- What SR holds when `v` is stored into it: FO stays 1 (R14). -/
def fixSr (v : Word) : Word := setFlag v srFO true

/-- SR at exception entry in the OpenRISC 1000 family (R160): SM 1, TEE, IEE, DME, IME 0, OVE 0 where
the implementation clears it, DSX 1 where the exception is taken in a delay slot; every other bit keeps
its value. -/
def entrySr (clearsOve inSlot : Bool) (sr : Word) : Word :=
  let taken := setFlag (setFlag (setFlag (setFlag (setFlag sr srTEE false) srIEE false) srDME false)
    srIME false) srSM true
  let gated := if clearsOve then setFlag taken srOVE false else taken
  fixSr (if inSlot then setFlag gated srDSX true else gated)

end Sys2Proof.Machine
end

