-- ==== Sys2Proof/Machine/Vectors.lean ====
section
/-! DEFINITION. Where an exception goes: the vector base and the vector address (60_exceptions.md R150,
R152). -/

namespace Sys2Proof.Machine

/-- `VECTOR_OFFSET(e)` (R152). -/
def offsetOf (v : VectorOffsets) : ExceptionKind → Word
  | .reset => v.reset
  | .busError => v.busError
  | .dataPageFault => v.dataPageFault
  | .insnPageFault => v.insnPageFault
  | .tickTimer => v.tickTimer
  | .alignment => v.alignment
  | .illegalInstruction => v.illegalInstruction
  | .externalInterrupt => v.externalInterrupt
  | .dtlbMiss => v.dtlbMiss
  | .itlbMiss => v.itlbMiss
  | .range => v.range
  | .systemCall => v.systemCall
  | .floatingPoint => v.floatingPoint
  | .trap => v.trap

/-- `base` of R150: `{EVBA, 13'b0}` (0 where EVBAR is absent) ORed with the offset SR[EPH] provides.
`LAYOUT` moves EVBA in the register's image and not here (D2, D13). -/
def vectorBase (c : Config) (evba : BitVec 19) (eph : Bool) : Word :=
  (if present c .evbar then evba ++ 0#13 else 0) ||| (if eph then c.ephOffset else 0)

/-- `vector_address(e)` (R150). -/
def vectorAddress (c : Config) (evba : BitVec 19) (eph : Bool) (e : ExceptionKind) : Word :=
  vectorBase c evba eph + offsetOf c.vectorOffset e

end Sys2Proof.Machine
end

