-- ==== Sys2Proof/Machine/State.lean ====
section
/-! DEFINITION. The machine's state, as plain data, the reasons a step can stop, and the state after
reset (10_state.md R10 to R14; 70_reset_and_hazards.md R180 to R184). -/

namespace Sys2Proof.Machine

/-- Why the machine stops with a fault. -/
inductive Fault
  /-- An access to a register of the chapter with SR.SM = 0 under `USER_SPR_POLICY` = fault (R122).
  Raised by `execMfspr` and `execMtspr`. Safe. -/
  | sprAccessInUserMode
  /-- The fetch of an instruction whose bytes nothing has placed in memory (log 10). Raised by `step`.
  Safe. -/
  | fetchUnwritten
deriving DecidableEq, Repr

/-- Why the model gives a step no meaning. -/
inductive Refusal
  /-- An instruction of the opcode table that exec has no meaning for: no arm answers it. Safe. -/
  | notModelled (mnemonic : String)
  /-- `ill_formed_config` (R4, D22): the implementation fails check `why`. Raised by every step and
  every meaning. Safe. -/
  | illFormedConfig (why : ConfigDefect)
  /-- `no_such_gpr` (R104): a register field names no register. Safe. -/
  | noSuchGpr
  /-- `spr_address_out_of_range` (R126), under `HIGH_ADDR_POLICY` = refuse. Safe. -/
  | sprAddressOutOfRange
  /-- `spr_outside_spec` (R81, R120, R127): no register of the chapter has the address. Safe. -/
  | sprOutsideSpec
  /-- `spr_access_in_user_mode` (R122), under `USER_SPR_POLICY` = refuse. Safe. -/
  | sprAccessInUserMode
  /-- `spr_absent` (R123), under `ABSENT_SPR_POLICY` = refuse. Safe. -/
  | sprAbsent
  /-- `write_to_r0` (R128), under `R0_POLICY` = refuse. Safe. -/
  | writeToR0
  /-- `isr_write` (R66, R125): a write to an implementation-specific register, to which the spec gives
  no effect. Safe. -/
  | isrWrite
  /-- `write_to_read_only_spr` (R125), under `RO_WRITE_POLICY` = refuse. Safe. -/
  | writeToReadOnlySpr
  /-- `instruction_outside_spec` (R105, R132): the word is no instruction of the spec. Raised by `step`.
  Safe. -/
  | instructionOutsideSpec (why : DecodeReject)
  /-- `ove_without_aecr` (R147): an arithmetic event with SR.OVE = 1, AECR absent and `NO_AECR_MASK`
  not supplied. Safe. -/
  | oveWithoutAecr
  /-- An SPR access in a delay slot (R190, I41), where the implementation's policy refuses it. Safe. -/
  | inDelaySlot
  /-- A jump or an exception return in a delay slot: undefined by the architecture (R190). Safe. -/
  | transferInDelaySlot
  /-- A return from exception outside supervisor mode: R161 calls it supervisor only. Safe. -/
  | returnInUserMode
deriving DecidableEq, Repr

/-- The class of an arithmetic instruction (R141). -/
inductive ArithClass
  | addSub | mul | divSigned | divUnsigned | mac
deriving DecidableEq, Repr

/-- `ArithEvent` (R141): what an arithmetic instruction hands to this block when it executes. -/
structure ArithEvent where
  cls : ArithClass
  cy : Bool
  ov : Bool
  dbz : Bool
deriving DecidableEq, Repr

/-- One arithmetic instruction, which is outside the spec, as far as the block needs it: its event
(R141), which flags it computes (a computed flag that is not set is cleared, R142), and its destination
register and result, if it has them (R145). All of it is supplied from outside (log 13). -/
structure ArithStep where
  event : ArithEvent
  computesCy : Bool
  computesOv : Bool
  dest : Option RegNo
  result : Word
deriving DecidableEq, Repr

/-- One step of a run (R197): the processor's next instruction, an event of an instruction outside the
spec (an arithmetic instruction R141, a taken jump or branch R190, a return from exception R161), or
reset (R180). -/
inductive Input
  | instruction
  | arith (x : ArithStep)
  | takenJump (target : Word)
  | exceptionReturn
  | reset
deriving DecidableEq, Repr

/-- Memory: the bytes something has placed in the 32-bit effective-address space (R80), as a list by
rising address. -/
abbrev Memory := List Host.Cell

/-- What a byte of memory that is not listed reads as: no value. The spec describes no memory contents;
a fetch of such a byte faults. DESIGN CHOICE, safe (log 10). -/
def Memory.unlisted : Option Byte := none

/-- The state of the machine. `cfg` holds the constants of the implementation, which no step changes
(R11); `draws` and `agenda` are the model's own (log 9, 12). -/
structure State where
  cfg : Config
  gpr : Vector Word 32
  pc : Word
  delaySlot : Option Word
  sr : Word
  evba : BitVec 19
  aecr : BitVec 7
  aesr : BitVec 7
  epcr0 : Word
  eear0 : Word
  esr0 : Word
  mem : Memory
  agenda : List Input
  draws : Nat
deriving DecidableEq, Repr

/-- The reset value of a seven-bit register: the implementation's, or a free value where it is
unspecified (R182). -/
def resetBits (given : Option (BitVec 7)) (draw : Nat) : BitVec 7 :=
  given.getD ((Config.draw draw).setWidth 7)

/-- The state after reset of an implementation with nothing in memory (R180 to R184). The general
registers and EPCR0, EEAR0, ESR0 have no reset value in the spec: 0, DESIGN CHOICE, unsafe (log 8). SR
and pc are the family's: PRESUMED, unsafe (log 7). -/
def State.resetFor (c : Config) : State where
  cfg := c
  gpr := Vector.replicate 32 0
  pc := vectorAddress c c.evbaReset ((fixSr c.srReset).getLsbD srEPH) .reset
  delaySlot := none
  sr := fixSr c.srReset
  evba := c.evbaReset
  aecr := resetBits c.aecrReset 0
  aesr := resetBits c.aesrReset 1
  epcr0 := 0
  eear0 := 0
  esr0 := 0
  mem := []
  agenda := []
  draws := 2

/-- The machine right after reset, for the implementation `referenceConfig` (log 1, 2). -/
def State.reset : State := State.resetFor referenceConfig

end Sys2Proof.Machine
end

