-- ==== Sys2Proof/Machine/Ops.lean ====
section
/-! DEFINITION. The named operations over registers and memory, taking an exception and returning from
one (10_state.md R12 to R14; 60_exceptions.md R160, R161; 20_memory.md R80). -/

namespace Sys2Proof.Machine

/-- What one step answers. -/
abbrev Result := Host.Outcome State Fault Refusal

/-! ### General registers (R12) -/

/-- `x[r]`: the value register `r` holds. -/
def State.readGpr (s : State) (r : RegNo) : Word := s.gpr[r.toNat]'r.isLt

/-- `x[r] <- v`. -/
def State.writeGpr (s : State) (r : RegNo) (v : Word) : State :=
  { s with gpr := s.gpr.set r.toNat v r.isLt }

/-- `x[d] <- v` for an instruction's destination, `R0_POLICY` deciding what register 0 does (R128):
`none` where it refuses the write. -/
def State.writeDest (s : State) (d : RegNo) (v : Word) : Option State :=
  if d = 0#5 then
    match s.cfg.policies.r0 with
    | .refuse => none
    | .write => some (s.writeGpr d v)
    | .discard => some s
  else some (s.writeGpr d v)

/-! ### The fields of State, one update each -/

def State.withSr (s : State) (v : Word) : State := { s with sr := fixSr v }
def State.withEvba (s : State) (v : BitVec 19) : State := { s with evba := v }
def State.withAecr (s : State) (v : BitVec 7) : State := { s with aecr := v }
def State.withAesr (s : State) (v : BitVec 7) : State := { s with aesr := v }
def State.withDraws (s : State) (n : Nat) : State := { s with draws := n }
def State.withAgenda (s : State) (a : List Input) : State := { s with agenda := a }
def State.withMem (s : State) (m : Memory) : State := { s with mem := m }

/-! ### The program counter (R13, R190) -/

/-- Where control goes after the instruction at pc: the jump's target in a delay slot, else the next
word (R13, R190). The sum wraps at 2^32, which R13 puts outside the spec: DESIGN CHOICE, unsafe
(log 36). -/
def State.nextPc (s : State) : Word := s.delaySlot.getD (s.pc + 4)

/-- `pc <- pc + 4`, or the jump's target when the instruction stands in a delay slot (R13, R190). -/
def State.advance (s : State) : State := { s with pc := s.nextPc, delaySlot := none }

/-- Control goes to `t`. -/
def State.goTo (s : State) (t : Word) : State := { s with pc := t, delaySlot := none }

/-- The instruction at pc is a taken jump to `t` with a delay slot: the next word runs first (R190). The
sum wraps at 2^32 (log 36). -/
def State.enterSlot (s : State) (t : Word) : State := { s with pc := s.pc + 4, delaySlot := some t }

/-! ### The supervision register (R14) -/

/-- One bit of SR. -/
def State.srFlag (s : State) (i : Nat) : Bool := s.sr.getLsbD i

/-- SR.SM = 1 (R170). -/
def State.supervisor (s : State) : Bool := s.srFlag srSM

/-! ### Taking an exception, and returning from one (R150, R160, R161) -/

/-- `vector_address(e)` as EVBA and SR.EPH stand (R150). -/
def State.vectorAddress (s : State) (e : ExceptionKind) : Word :=
  Sys2Proof.Machine.vectorAddress s.cfg s.evba (s.srFlag srEPH) e

/-- The address exception entry saves: the instruction at pc, or in a delay slot the jump before it
(R160). The difference wraps at 0 (log 36). -/
def State.returnAddress (s : State) : Word := if s.delaySlot.isSome then s.pc - 4 else s.pc

/-- Thirty-two free values, one for each general register. -/
def drawGprs (n : Nat) : Vector Word 32 := Vector.ofFn fun i => Config.draw (n + i)

/-- `raise e` (R160): control goes to the vector, in supervisor mode. Under the family's entry EPCR0
takes the return address, EEAR0 the effective address `ea` of a memory exception, ESR0 the SR as it
stood; SR changes as `entrySr` says. With `TrapEntry` left open, all of that and the general registers
hold free values (R197). Memory, the implementation, the agenda and an empty delay slot are the same under
both, although R160 and R197 leave memory open with the rest: DESIGN CHOICE, unsafe (log 15). The
family's entry is R160's general knowledge: UNVERIFIED, unsafe (log 15); the saved pc of exceptions other
than the range exception: PRESUMED, unsafe (log 16). -/
def State.raise (s : State) (e : ExceptionKind) (ea : Option Word) : State :=
  match s.cfg.policies.trapEntry with
  | .family clearsOve =>
    { s with
      pc := s.vectorAddress e
      delaySlot := none
      sr := entrySr clearsOve s.delaySlot.isSome s.sr
      epcr0 := s.returnAddress
      eear0 := ea.getD s.eear0
      esr0 := s.sr }
  | .leftOpen =>
    { s with
      pc := s.vectorAddress e
      delaySlot := none
      sr := fixSr (setFlag (Config.draw s.draws) srSM true)
      epcr0 := Config.draw (s.draws + 1)
      eear0 := Config.draw (s.draws + 2)
      esr0 := Config.draw (s.draws + 3)
      gpr := drawGprs (s.draws + 4)
      draws := s.draws + 36 }

/-- Return from exception (R161): pc and SR take what entry saved. UNVERIFIED, unsafe (log 17). -/
def State.returnFromException (s : State) : State := (s.withSr s.esr0).goTo s.epcr0

/-! ### Memory (R80) -/

/-- The byte at address `a`. -/
def Memory.read : Memory → Nat → Option Byte
  | [], _ => Memory.unlisted
  | (b, v) :: rest, a => if b = a then some v else Memory.read rest a

/-- Byte `v` at address `a`, the list kept by rising address. -/
def Memory.write : Memory → Nat → Byte → Memory
  | [], a, v => [(a, v)]
  | (b, u) :: rest, a, v =>
    if a < b then (a, v) :: (b, u) :: rest
    else if a = b then (a, v) :: rest
    else (b, u) :: Memory.write rest a v

/-- Addresses strictly rise from above `low`. -/
def Memory.risingFrom : Nat → Memory → Bool
  | _, [] => true
  | low, (a, _) :: rest => low ≤ a && Memory.risingFrom (a + 1) rest

/-- The canonical form: addresses strictly rising, all inside the 32-bit space. No entry can equal what
an unlisted address reads as, which is no value. -/
def Memory.wf (m : Memory) : Bool := Memory.risingFrom 0 m && m.all fun c => c.1 < 2 ^ 32

/-- The bytes `bs` at addresses `a`, `a + 1`, …, wrapping at the end of the space. -/
def Memory.writeBytes (m : Memory) (a : Word) : List Byte → Memory
  | [] => m
  | b :: bs => Memory.writeBytes (Memory.write m a.toNat b) (a + 1) bs

/-- The four bytes from address `a` up. -/
def Memory.readWord (m : Memory) (a : Word) : Option (List Byte) :=
  match Memory.read m a.toNat, Memory.read m (a + 1).toNat, Memory.read m (a + 2).toNat,
    Memory.read m (a + 3).toNat with
  | some b0, some b1, some b2, some b3 => some [b0, b1, b2, b3]
  | _, _, _, _ => none

end Sys2Proof.Machine
end

