-- ==== Sys2Proof/Machine/Operands.lean ====
section
/-! DEFINITION. The operand form of both instructions: the SPR an instruction names (30_encoding.md
R103, R104). -/

namespace Sys2Proof.Machine

/-- `ea = x[A] | zext_32(K)`: bitwise OR, K neither sign-extended nor scaled (R103, R104). -/
def State.sprEa (s : State) (a : RegNo) (k : SprAddr) : Word := s.readGpr a ||| k.setWidth 32

/-- `ea[31:16] = 0`: the address fits the SPR space (R126). -/
def sprEaFits (ea : Word) : Bool := takeBits 16 16 ea == 0

/-- `a = ea[15:0]`: the SPR address (R104). -/
def sprEaAddr (ea : Word) : SprAddr := takeBits 0 16 ea

/-- The register of the chapter the instruction names, if any (R104, R127). -/
def State.sprNamed (s : State) (a : RegNo) (k : SprAddr) : Option Spr :=
  regAt s.cfg.sprNum (sprEaAddr (s.sprEa a k))

end Sys2Proof.Machine
end

