-- ==== Sys2Proof/Machine/SprImages.lean ====
section
/-! DEFINITION. The 32-bit image of each register, and what a write stores (10_state.md R19, R28, R56,
R60, R64; 40_spr_access.md R124, R125). Every field stands at its `LAYOUT` place, reserved bits 0 (R16,
D4: log 20). -/

namespace Sys2Proof.Machine

def vrImage (l : VrLayout) (r : VrFields) : Word :=
  placeBits l.rev r.rev ||| placeFlag l.uvrp r.uvrp ||| placeBits l.cfg r.cfg ||| placeBits l.ver r.ver

def uprImage (l : UprLayout) (r : UprFields) : Word :=
  placeFlag l.up r.up ||| placeFlag l.dcp r.dcp ||| placeFlag l.icp r.icp ||| placeFlag l.dmp r.dmp |||
  placeFlag l.imp r.imp ||| placeFlag l.mp r.mp ||| placeFlag l.dup r.dup ||| placeFlag l.pcup r.pcup |||
  placeFlag l.pmp r.pmp ||| placeFlag l.picp r.picp ||| placeFlag l.ttp r.ttp ||| placeBits l.cup r.cup

def cpucfgrImage (l : CpucfgrLayout) (r : CpucfgrFields) : Word :=
  placeBits l.nsgf r.nsgf ||| placeFlag l.cgf r.cgf ||| placeFlag l.ob32s r.ob32s |||
  placeFlag l.ob64s r.ob64s ||| placeFlag l.of32s r.of32s ||| placeFlag l.of64s r.of64s |||
  placeFlag l.ov64s r.ov64s ||| placeFlag l.nd r.nd ||| placeFlag l.avrp r.avrp |||
  placeFlag l.evbarp r.evbarp ||| placeFlag l.isrp r.isrp ||| placeFlag l.aecsrp r.aecsrp |||
  placeFlag l.of64a32s r.of64a32s

def mmucfgrImage (l : MmucfgrLayout) (r : MmucfgrFields) : Word :=
  placeBits l.ntw r.ntw ||| placeBits l.nts r.nts ||| placeBits l.nae r.nae ||| placeFlag l.cri r.cri |||
  placeFlag l.pri r.pri ||| placeFlag l.teiri r.teiri ||| placeFlag l.htr r.htr

def dccfgrImage (l : DccfgrLayout) (r : DccfgrFields) : Word :=
  placeBits l.ncw r.ncw ||| placeBits l.ncs r.ncs ||| placeFlag l.bs r.bs ||| placeFlag l.cws r.cws |||
  placeFlag l.ccri r.ccri ||| placeFlag l.cbiri r.cbiri ||| placeFlag l.cbpri r.cbpri |||
  placeFlag l.cblri r.cblri ||| placeFlag l.cbfri r.cbfri ||| placeFlag l.cbwbri r.cbwbri

def iccfgrImage (l : IccfgrLayout) (r : IccfgrFields) : Word :=
  placeBits l.ncw r.ncw ||| placeBits l.ncs r.ncs ||| placeFlag l.bs r.bs ||| placeFlag l.ccri r.ccri |||
  placeFlag l.cbiri r.cbiri ||| placeFlag l.cbpri r.cbpri ||| placeFlag l.cblri r.cblri

def dcfgrImage (l : DcfgrLayout) (r : DcfgrFields) : Word :=
  placeBits l.ndp r.ndp ||| placeFlag l.wpci r.wpci

def vr2Image (l : Vr2Layout) (r : Vr2Fields) : Word := placeBits l.cpuid r.cpuid ||| placeBits l.ver r.ver

def avrImage (l : AvrLayout) (r : AvrFields) : Word :=
  placeBits l.maj r.maj ||| placeBits l.min r.min ||| placeBits l.rev r.rev

/-- The image of AECR or AESR: each of the seven bits at its place (R60, R64). -/
def arithImage (l : ArithLayout) (b : BitVec 7) : Word :=
  placeFlag l.cyadde (b.getLsbD 0) ||| placeFlag l.ovadde (b.getLsbD 1) |||
  placeFlag l.cymule (b.getLsbD 2) ||| placeFlag l.ovmule (b.getLsbD 3) |||
  placeFlag l.dbze (b.getLsbD 4) ||| placeFlag l.cymacadde (b.getLsbD 5) |||
  placeFlag l.ovmacadde (b.getLsbD 6)

/-- What a write of `v` stores into AECR or AESR: the seven fields of `v`, the rest dropped (R60, R64,
R16). Under the default layout, `v[6:0]`. -/
def arithBits (l : ArithLayout) (v : Word) : BitVec 7 :=
  sevenBits (v.getLsbD l.cyadde) (v.getLsbD l.ovadde) (v.getLsbD l.cymule) (v.getLsbD l.ovmule)
    (v.getLsbD l.dbze) (v.getLsbD l.cymacadde) (v.getLsbD l.ovmacadde)

/-- `image(EVBAR)`: EVBA at its place in `LAYOUT`, zeros elsewhere (R19, R56). -/
def evbarImage (l : Layout) (evba : BitVec 19) : Word := placeBits l.evbarEvba evba

/-- What a write of `v` stores into EVBAR: the field EVBA of `v` (R56). Under the default layout,
`v[31:13]`. -/
def evbaBits (l : Layout) (v : Word) : BitVec 19 := takeBits l.evbarEvba 19 v

/-- `image(R)` (R19, R124). An ISR has no image of the spec's: the value the implementation supplies, or
the free value a read takes (R66). -/
def State.image (s : State) : Spr → Word
  | .vr => vrImage s.cfg.layout.vr s.cfg.vr
  | .upr => uprImage s.cfg.layout.upr s.cfg.upr
  | .cpucfgr => cpucfgrImage s.cfg.layout.cpucfgr s.cfg.cpucfgr
  | .dmmucfgr => mmucfgrImage s.cfg.layout.mmucfgr s.cfg.dmmucfgr
  | .immucfgr => mmucfgrImage s.cfg.layout.mmucfgr s.cfg.immucfgr
  | .dccfgr => dccfgrImage s.cfg.layout.dccfgr s.cfg.dccfgr
  | .iccfgr => iccfgrImage s.cfg.layout.iccfgr s.cfg.iccfgr
  | .dcfgr => dcfgrImage s.cfg.layout.dcfgr s.cfg.dcfgr
  | .pccfgr => placeBits s.cfg.layout.pccfgrNpc s.cfg.pccfgr.npc
  | .vr2 => vr2Image s.cfg.layout.vr2 s.cfg.vr2
  | .avr => avrImage s.cfg.layout.avr s.cfg.avr
  | .evbar => evbarImage s.cfg.layout s.evba
  | .aecr => arithImage s.cfg.layout.arith s.aecr
  | .aesr => arithImage s.cfg.layout.arith s.aesr
  | .isr i => (s.cfg.isrValue[i]).getD (Config.draw s.draws)

/-- A read of `r` takes a free value: an ISR whose value the implementation does not supply (R66). -/
def State.readDraws (s : State) : Spr → Bool
  | .isr i => (s.cfg.isrValue[i]).isNone
  | _ => false

end Sys2Proof.Machine
end

