-- ==== Sys2Proof/Machine/SprAccess.lean ====
section
/-! DEFINITION. The SPR access instructions `l.mfspr` and `l.mtspr` (40_spr_access.md R120 to R128). -/

namespace Sys2Proof.Machine

/-! ### The checks both instructions make (R122, R126, R127) -/

/-- What the checks answer: the register the instruction reaches, or the step's outcome. -/
inductive Gate
  | pass (r : Spr)
  | done (o : Result)

/-- `USER_SPR_POLICY` (R122): no value of it lets the access succeed. -/
def userSprOutcome (s : State) : Result :=
  match s.cfg.policies.userSpr with
  | .fault => .fault .sprAccessInUserMode
  | .illegalInstruction => .next (s.raise .illegalInstruction none)
  | .refuse => .refused .sprAccessInUserMode

/-- The checks in the order of R127, up to presence: the implementation is one the model is defined on
(D22), the register numbers, the delay slot (R190), the address and `HIGH_ADDR_POLICY`, the
classification of the address, privilege. -/
def sprGate (s : State) (used : List RegNo) (a : RegNo) (k : SprAddr) : Gate :=
  match configDefect s.cfg with
  | some why => .done (.refused (.illFormedConfig why))
  | none =>
    if !used.all (hasGpr s.cfg) then .done (.refused .noSuchGpr)
    else if s.delaySlot.isSome && s.cfg.policies.delaySlot == .refuse then .done (.refused .inDelaySlot)
    else if !sprEaFits (s.sprEa a k) && s.cfg.policies.highAddr == .refuse then
      .done (.refused .sprAddressOutOfRange)
    else
      match s.sprNamed a k with
      | none => .done (.refused .sprOutsideSpec)
      | some r => if s.supervisor then .pass r else .done (userSprOutcome s)

/-! ### l.mfspr (R120, R123, R124, R128) -/

/-- `spr_read(R)` with `ABSENT_SPR_POLICY(read)` (R123, R124): the value read and the state after the
read, in which the free-value counter has moved where one was taken; `none` where the read is refused. -/
def sprRead (s : State) (r : Spr) : Option (Word × State) :=
  if present s.cfg r then
    some (s.image r, if s.readDraws r then s.withDraws (s.draws + 1) else s)
  else
    match s.cfg.policies.absentSpr with
    | .refuse => none
    | .readZero => some (0, s)
    | .draw => some (Config.draw s.draws, s.withDraws (s.draws + 1))

/-- `l.mfspr rD,rA,K` (R120). -/
def execMfspr (d a : RegNo) (k : SprAddr) (s : State) : Result :=
  match sprGate s [d, a] a k with
  | .done o => o
  | .pass r =>
    match sprRead s r with
    | none => .refused .sprAbsent
    | some (v, t) =>
      match t.writeDest d v with
      | none => .refused .writeToR0
      | some u => .next u.advance

/-! ### l.mtspr (R121, R123, R125) -/

/-- `spr_write(R, v)` for a present register (R125). -/
def sprStore (s : State) (r : Spr) (v : Word) : Result :=
  match r with
  | .evbar => .next (s.withEvba (evbaBits s.cfg.layout v)).advance
  | .aecr => .next (s.withAecr (arithBits s.cfg.layout.arith v)).advance
  | .aesr => .next (s.withAesr (arithBits s.cfg.layout.arith v)).advance
  | .isr _ => .refused .isrWrite
  | .vr | .upr | .cpucfgr | .dmmucfgr | .immucfgr | .dccfgr | .iccfgr | .dcfgr | .pccfgr | .vr2 | .avr =>
    match s.cfg.policies.roWrite with
    | .ignore => .next s.advance
    | .refuse => .refused .writeToReadOnlySpr

/-- `ABSENT_SPR_POLICY(write)` (R123). -/
def sprStoreAbsent (s : State) : Result :=
  match s.cfg.policies.absentSpr with
  | .refuse => .refused .sprAbsent
  | .readZero | .draw => .next s.advance

/-- `l.mtspr rA,rB,K` (R121). -/
def execMtspr (a b : RegNo) (k : SprAddr) (s : State) : Result :=
  match sprGate s [a, b] a k with
  | .done o => o
  | .pass r => if present s.cfg r then sprStore s r (s.readGpr b) else sprStoreAbsent s

end Sys2Proof.Machine
end

