-- ==== Sys2Proof/Machine/Dispatch.lean ====
section
/-! DEFINITION. `exec`: one arm per row of spec/opcode_table.json. -/

namespace Sys2Proof.Machine

/-- The meaning of an instruction. -/
def exec (i : Instr) (s : State) : Host.Outcome State Fault Refusal :=
  match i with
  | .mfspr d a k => Sys2Proof.Machine.execMfspr d a k s
  | .mtspr a b k => Sys2Proof.Machine.execMtspr a b k s

end Sys2Proof.Machine
end

