-- ==== Sys2Proof/Machine/Flags.lean ====
section
/-! DEFINITION. The arithmetic conditions: what the flags mean for each class of instruction
(60_exceptions.md R142) and the seven conditions of AECR and AESR (R141). -/

namespace Sys2Proof.Machine

/-! ### The conditions (R141) -/

/-- `conditions`: the seven conditions of an event, CYADDE bit 0 and on in the order of R59. -/
def conditions (e : ArithEvent) : BitVec 7 :=
  sevenBits
    (e.cls == .addSub && e.cy)
    (e.cls == .addSub && e.ov)
    (e.cls == .mul && e.cy)
    (e.cls == .mul && e.ov)
    ((e.cls == .divSigned && e.dbz && e.ov) || (e.cls == .divUnsigned && e.dbz && e.cy))
    (e.cls == .mac && e.cy)
    (e.cls == .mac && e.ov)

/-! ### What the flags mean (R142)

A supplier of an `ArithEvent` meets these: the exact result of the operation as an integer, compared
with what the width can hold. -/

/-- "unsigned overflow": the exact result lies outside 0 .. 2^w - 1. -/
def unsignedOverflow (w : Nat) (exact : Int) : Bool := exact < 0 || 2 ^ w ≤ exact

/-- "signed overflow": the exact result lies outside -2^(w-1) .. 2^(w-1) - 1. -/
def signedOverflow (w : Nat) (exact : Int) : Bool := exact < -(2 ^ (w - 1)) || 2 ^ (w - 1) ≤ exact

/-- The event of an addition with carry-in `cin` (R142, add_sub). R142 names the carry-in for `cy` alone;
that it counts in the exact signed sum of `ov` too is the model's reading: DEDUCED, unsafe (log 39). -/
def addEvent {w : Nat} (a b : BitVec w) (cin : Bool) : ArithEvent where
  cls := .addSub
  cy := unsignedOverflow w (a.toNat + b.toNat + cin.toNat)
  ov := signedOverflow w (a.toInt + b.toInt + cin.toNat)
  dbz := false

/-- The event of a subtraction: a borrow is the unsigned overflow (R142, add_sub). -/
def subEvent {w : Nat} (a b : BitVec w) : ArithEvent where
  cls := .addSub
  cy := unsignedOverflow w (a.toNat - b.toNat : Int)
  ov := signedOverflow w (a.toInt - b.toInt)
  dbz := false

/-- The event of a multiplication that computes the flags named: a signed one may compute only `ov`, an
unsigned one only `cy` (R142, mul). -/
def mulEvent {w : Nat} (a b : BitVec w) (computesCy computesOv : Bool) : ArithEvent where
  cls := .mul
  cy := computesCy && unsignedOverflow w (a.toNat * b.toNat)
  ov := computesOv && signedOverflow w (a.toInt * b.toInt)
  dbz := false

/-- The event of a signed division, the "integer division instruction" (R142, div_signed). -/
def divSignedEvent {w : Nat} (b : BitVec w) : ArithEvent where
  cls := .divSigned
  cy := false
  ov := b == 0
  dbz := b == 0

/-- The event of `l.divu` (R142, div_unsigned). -/
def divUnsignedEvent {w : Nat} (b : BitVec w) : ArithEvent where
  cls := .divUnsigned
  cy := b == 0
  ov := false
  dbz := b == 0

/-- The event of the addition stage of a MAC instruction that adds the product, given as the exact
integer `unsignedProduct` or `signedProduct`, to an accumulator of `w` bits (R142, mac). The source does
not give the accumulator's width. -/
def macEvent {w : Nat} (acc : BitVec w) (unsignedProduct signedProduct : Int)
    (computesCy computesOv : Bool) : ArithEvent where
  cls := .mac
  cy := computesCy && unsignedOverflow w (acc.toNat + unsignedProduct)
  ov := computesOv && signedOverflow w (acc.toInt + signedProduct)
  dbz := false

/-- SR.CY and SR.OV after an arithmetic instruction: a flag the event says was set is 1, a flag the
instruction computes and does not set is 0, any other keeps its value (R141, R142, R145 step 1). -/
def State.withArithFlags (s : State) (x : ArithStep) : State :=
  s.withSr (setFlag (setFlag s.sr srCY (x.event.cy || (!x.computesCy && s.srFlag srCY)))
    srOV (x.event.ov || (!x.computesOv && s.srFlag srOV)))

end Sys2Proof.Machine
end

