-- ==== Sys2Proof/Machine/Events.lean ====
section
/-! DEFINITION. The steps that are no instruction of the spec (70_reset_and_hazards.md R197): the
arithmetic event and its exception (60_exceptions.md R141 to R147), a taken jump (R190), a return from
exception (R161), and reset (R180 to R183). -/

namespace Sys2Proof.Machine

/-! ### The arithmetic exception (R143 to R147) -/

/-- The enable bits of the test (R143): AECR, or `NO_AECR_MASK` where AECR is absent (R147). -/
def State.arithMask (s : State) : Option (BitVec 7) :=
  if present s.cfg .aecr then some s.aecr else s.cfg.policies.noAecrMask

/-- The record (R144): every condition that occurred and was enabled gets its bit, bits already 1 stay.
Without AESR nothing is recorded (R147). -/
def State.recordHit (s : State) (hit : BitVec 7) : State :=
  if present s.cfg .aesr then s.withAesr (s.aesr ||| hit) else s

/-- The destination of an arithmetic instruction, if it has one, takes `v`; `none` where `R0_POLICY`
refuses. -/
def State.writeResult (s : State) (dest : Option RegNo) (v : Word) : Option State :=
  match dest with
  | none => some s
  | some d => s.writeDest d v

/-- `RESULT_ON_EXC` (R145): the destination of the raising instruction. -/
def State.resultOnExc (s : State) (x : ArithStep) : Option State :=
  match s.cfg.policies.resultOnExc with
  | .written => s.writeResult x.dest x.result
  | .unwritten => some s
  | .unknown => (s.withDraws (s.draws + 1)).writeResult x.dest (Config.draw s.draws)

/-- The conditions that hit, given that SR.OVE is 1: `none` where the spec does not say which conditions
raise (R147). -/
def State.arithHit (s : State) (e : ArithEvent) : Option (BitVec 7) :=
  s.arithMask.map fun m => conditions e &&& m

/-- An arithmetic instruction that does not raise: its result, and the next instruction. -/
def arithComplete (s : State) (x : ArithStep) : Result :=
  match s.writeResult x.dest x.result with
  | none => .refused .writeToR0
  | some t => .next t.advance

/-- An arithmetic instruction that raises: AESR, then the exception (R145 steps 2 and 3). -/
def arithRaise (s : State) (x : ArithStep) (hit : BitVec 7) : Result :=
  match (s.recordHit hit).resultOnExc x with
  | none => .refused .writeToR0
  | some t => .next (t.raise .range none)

/-- The step of an arithmetic instruction (R141, R143, R145, R147): its flags, then the test of its own
conditions against AECR with SR.OVE, then the exception or the next instruction. At a pc that is no
multiple of four it runs and may raise, and no alignment exception comes before it, a priority R163 does
not decide: DESIGN CHOICE, unsafe (log 37). Its class is not held against UPR or CPUCFGR: an event of class
mac runs, and may raise and be recorded, where UPR.MP = 0 too, a use of an absent unit that R26 leaves
open: DESIGN CHOICE, unsafe (log 38). -/
def arithStep (x : ArithStep) (s : State) : Result :=
  if !x.dest.all (hasGpr s.cfg) then .refused .noSuchGpr
  else
    if s.srFlag srOVE then
      match s.arithHit x.event with
      | none => .refused .oveWithoutAecr
      | some hit =>
        if hit = 0#7 then arithComplete (s.withArithFlags x) x else arithRaise (s.withArithFlags x) x hit
    else arithComplete (s.withArithFlags x) x

/-! ### Control transfer by instructions outside the spec (R161, R190) -/

/-- A taken jump or branch to `target` (R190): with ND = 0 the delay slot runs first, with ND = 1 control
reaches the target at once. A jump in a delay slot is undefined. -/
def jumpStep (target : Word) (s : State) : Result :=
  if s.delaySlot.isSome then .refused .transferInDelaySlot
  else if s.cfg.cpucfgr.nd then .next (s.goTo target)
  else .next (s.enterSlot target)

/-- A return from exception (R161). -/
def returnStep (s : State) : Result :=
  if s.delaySlot.isSome then .refused .transferInDelaySlot
  else if s.supervisor then .next s.returnFromException
  else .refused .returnInUserMode

/-! ### Reset (R180 to R183) -/

/-- Reset of a running machine: the constants and memory stay, the registers take their reset values, and
what the spec gives no reset value holds a free value (R182, R183; log 18). -/
def State.applyReset (s : State) : State :=
  { State.resetFor s.cfg with
    mem := s.mem
    agenda := s.agenda
    aecr := resetBits s.cfg.aecrReset s.draws
    aesr := resetBits s.cfg.aesrReset (s.draws + 1)
    epcr0 := Config.draw (s.draws + 2)
    eear0 := Config.draw (s.draws + 3)
    esr0 := Config.draw (s.draws + 4)
    gpr := drawGprs (s.draws + 5)
    draws := s.draws + 37 }

end Sys2Proof.Machine
end

