-- ==== Sys2Proof/Machine/Fetch.lean ====
section
/-! DEFINITION. Fetching the bytes of the instruction at pc, and placing an instruction there from
outside (10_state.md R13; 20_memory.md R83, R84; 30_encoding.md R100). -/

namespace Sys2Proof.Machine

/-- What the fetch at pc finds. -/
inductive Fetched
  | misaligned
  | unwritten
  | bytes (bs : List Byte)
deriving DecidableEq, Repr

/-- A multiple of four. -/
def wordAligned (a : Word) : Bool := takeBits 0 2 a == 0

/-- The four bytes at pc. Instructions are word aligned (R13, R100). -/
def State.fetch (s : State) : Fetched :=
  if wordAligned s.pc then
    match Memory.readWord s.mem s.pc with
    | some bs => .bytes bs
    | none => .unwritten
  else .misaligned

/-- The instruction word at pc as the decoder reads it. -/
def State.decodeAt (s : State) (bs : List Byte) : Decoded := decodeBytes s.cfg.byteOrder bs

/-- `s` with the word `w` at pc (log 11). A misaligned pc, at which nothing is fetched, is first rounded
down; an agenda, which would come before the instruction, is dropped. -/
def State.placeWord (s : State) (w : Word) : State :=
  let at4 := s.pc &&& ~~~(3 : Word)
  { s with
    pc := at4
    mem := Memory.writeBytes s.mem at4 (wordBytes s.cfg.byteOrder w)
    agenda := [] }

end Sys2Proof.Machine
end

