-- ==== Sys2Proof/Machine/Step.lean ====
section
/-! DEFINITION. One step of the machine (70_reset_and_hazards.md R197), and the placing of an
instruction where the next step fetches it. -/

namespace Sys2Proof.Machine

/-- The processor's next instruction: fetch, decode, `exec`. A misaligned fetch takes the alignment
exception (R84, log 16). -/
def runInstruction (s : State) : Host.Outcome State Fault Refusal :=
  match s.fetch with
  | .misaligned => .next (s.raise .alignment (some s.pc))
  | .unwritten => .fault .fetchUnwritten
  | .bytes bs =>
    match s.decodeAt bs with
    | .rejected why => .refused (.instructionOutsideSpec why)
    | .insn i => exec i s

/-- One entry of the agenda. An event runs wherever pc stands: only the fetch of an instruction takes the
alignment exception, a point R84 puts outside the spec. DESIGN CHOICE, unsafe (log 37). -/
def runInput (i : Input) (s : State) : Host.Outcome State Fault Refusal :=
  match i with
  | .instruction => runInstruction s
  | .arith x => arithStep x s
  | .takenJump target => jumpStep target s
  | .exceptionReturn => returnStep s
  | .reset => .next s.applyReset

/-- One step: the head of the agenda, or the next instruction where the agenda is empty. The model is
defined on a well-formed implementation only (R4, D22). -/
def step (s : State) : Host.Outcome State Fault Refusal :=
  match configDefect s.cfg with
  | some why => .refused (.illFormedConfig why)
  | none =>
    match s.agenda with
    | [] => runInstruction s
    | i :: rest => runInput i (s.withAgenda rest)

/-- `s` with an instruction of spec/opcode_table.json stored where `step` fetches next: `w`'s low `nbits`
bits, zeros above them, one 32-bit word (log 11). -/
def State.withFetchWord (s : State) (nbits w : Nat) : State :=
  s.placeWord (BitVec.ofNat 32 (w % 2 ^ nbits))

end Sys2Proof.Machine
end

