-- ==== Sys2Proof/Safety.lean ====
section
/-! DEFINITION. The terms claims are stated in: which checks an access passes, what a step leaves
unchanged, which instruction a step runs, and the invariant every step keeps. -/

namespace Sys2Proof.Machine

/-! ### An access and its checks (40_spr_access.md R127) -/

/-- An instruction that names the general registers `used` and the SPR address `x[a] | k` passes every
check of R127 that comes before privilege, and reaches register `r` of the chapter. -/
structure Reaches (s : State) (used : List RegNo) (a : RegNo) (k : SprAddr) (r : Spr) : Prop where
  config : configDefect s.cfg = none
  registers : ∀ x ∈ used, hasGpr s.cfg x = true
  slot : s.delaySlot = none ∨ s.cfg.policies.delaySlot = .execute
  address : sprEaFits (s.sprEa a k) = true ∨ s.cfg.policies.highAddr = .truncate
  named : s.sprNamed a k = some r

/-- `l.mtspr` drops nothing but reserved bits of `r`, and `r` takes a write (R125). -/
def writable : Spr → Bool
  | .evbar | .aecr | .aesr => true
  | .vr | .upr | .cpucfgr | .dmmucfgr | .immucfgr | .dccfgr | .iccfgr | .dcfgr | .pccfgr | .vr2 | .avr
  | .isr _ => false

/-! ### What a step leaves unchanged -/

/-- Every general register reads as before. -/
def SameGprs (s t : State) : Prop := ∀ r, t.readGpr r = s.readGpr r

/-- Every general register but `d` reads as before. -/
def SameGprsBut (d : RegNo) (s t : State) : Prop := ∀ r, r ≠ d → t.readGpr r = s.readGpr r

/-- The registers exception entry saves into are unchanged. -/
def SameSaved (s t : State) : Prop := t.epcr0 = s.epcr0 ∧ t.eear0 = s.eear0 ∧ t.esr0 = s.esr0

/-- EVBA, AECR and AESR are unchanged. -/
def SameBlock (s t : State) : Prop := t.evba = s.evba ∧ t.aecr = s.aecr ∧ t.aesr = s.aesr

/-- Every byte of memory reads as before. -/
def SameMemory (s t : State) : Prop := ∀ a, Memory.read t.mem a = Memory.read s.mem a

/-- The constants of the implementation and the steps still to come are unchanged. -/
def SameRun (s t : State) : Prop := t.cfg = s.cfg ∧ t.agenda = s.agenda

/-- Control has left the instruction at pc the normal way: the next word, or the jump's target in a
delay slot (R13, R190). -/
def Advanced (s t : State) : Prop := t.pc = s.delaySlot.getD (s.pc + 4) ∧ t.delaySlot = none

/-! ### What a step does -/

/-- The head of the agenda, an instruction where it is empty (R197). -/
def State.nextInput (s : State) : Input :=
  match s.agenda with
  | [] => .instruction
  | i :: _ => i

/-- The instruction the next step runs, where it runs one. -/
def State.nextInstr (s : State) : Option Instr :=
  match s.nextInput with
  | .instruction =>
    match s.fetch with
    | .bytes bs => (s.decodeAt bs).toOption
    | _ => none
  | _ => none

/-- The next step is an `l.mtspr` in supervisor mode addressed to `r`. -/
def State.NextWrites (s : State) (r : Spr) : Prop :=
  ∃ a b k, s.nextInstr = some (.mtspr a b k) ∧ s.sprNamed a k = some r ∧ s.supervisor = true

/-- The next step is an arithmetic event that raises (R143). -/
def State.NextRaises (s : State) : Prop :=
  ∃ x hit, s.nextInput = .arith x ∧ s.srFlag srOVE = true ∧ s.arithHit x.event = some hit ∧ hit ≠ 0#7

/-- An arithmetic event's destination, if it has one, is an existing register to which `R0_POLICY` does
not refuse a write (R104, R128; log 13). -/
def State.DestinationWritable (s : State) (x : ArithStep) : Prop :=
  ∀ d, x.dest = some d → hasGpr s.cfg d = true ∧ (d = 0#5 → s.cfg.policies.r0 ≠ .refuse)

/-- An arithmetic event that raises nothing has run (R143), `rest` of the agenda to come: EVBA, AECR, AESR
and the saved registers are as they were, control goes on, CY and OV are the instruction's (R145 step 1),
and the destination takes the result, register 0 as `R0_POLICY` says. Destination, flags and advance are
the step's own interface (log 13), and so is that no class of event needs a unit in UPR (log 38). -/
structure ArithCompleted (s : State) (x : ArithStep) (rest : List Input) (t : State) : Prop where
  block : SameBlock s t
  saved : SameSaved s t
  memory : SameMemory s t
  control : Advanced s t
  cfg : t.cfg = s.cfg
  agenda : t.agenda = rest
  draws : t.draws = s.draws
  result : ∀ d, x.dest = some d → SameGprsBut d s t ∧
    (d ≠ 0#5 ∨ s.cfg.policies.r0 = .write → t.readGpr d = x.result) ∧
    (d = 0#5 → s.cfg.policies.r0 = .discard → t.readGpr d = s.readGpr d)
  noResult : x.dest = none → SameGprs s t
  carry : t.srFlag srCY = (x.event.cy || (!x.computesCy && s.srFlag srCY))
  overflow : t.srFlag srOV = (x.event.ov || (!x.computesOv && s.srFlag srOV))
  otherFlags : ∀ j, j < 32 → j ≠ srCY → j ≠ srOV → j ≠ srFO → t.srFlag j = s.srFlag j

/-- What the family's entry and the instruction leave of an arithmetic event that raised (R145, R160; logs
13, 15): the saved SR holds the new flags, and the destination is as `RESULT_ON_EXC` says, register 0 as
`R0_POLICY` says besides. -/
structure ArithSaved (s : State) (x : ArithStep) (t : State) : Prop where
  pc : t.epcr0 = s.returnAddress
  address : t.eear0 = s.eear0
  carry : t.esr0.getLsbD srCY = (x.event.cy || (!x.computesCy && s.srFlag srCY))
  overflow : t.esr0.getLsbD srOV = (x.event.ov || (!x.computesOv && s.srFlag srOV))
  otherFlags : ∀ j, j < 32 → j ≠ srCY → j ≠ srOV → j ≠ srFO → t.esr0.getLsbD j = s.srFlag j
  otherGprs : ∀ r, x.dest ≠ some r → t.readGpr r = s.readGpr r
  result : ∀ d, x.dest = some d →
    (s.cfg.policies.resultOnExc = .unwritten → t.readGpr d = s.readGpr d) ∧
    (d = 0#5 → s.cfg.policies.r0 = .discard → t.readGpr d = s.readGpr d) ∧
    (d ≠ 0#5 ∨ s.cfg.policies.r0 = .write →
      (s.cfg.policies.resultOnExc = .written → t.readGpr d = x.result) ∧
      (s.cfg.policies.resultOnExc = .unknown → t.readGpr d = Config.draw s.draws))

/-- An arithmetic event has raised (R143, R160), `rest` of the agenda to come: control is at the range
vector in supervisor mode, AECR and EVBA are as they were, and under the family's entry `ArithSaved` holds.
That memory and the agenda stay under an entry left open, and that no delay slot is left, is the model's
choice (log 15), and so is that an event of class mac raises without a MAC unit too (log 38). AESR is for
the statement to say (R144, R147). -/
structure ArithRaised (s : State) (x : ArithStep) (rest : List Input) (t : State) : Prop where
  vector : t.pc = s.vectorAddress .range
  noSlot : t.delaySlot = none
  supervisor : t.supervisor = true
  aecr : t.aecr = s.aecr
  evba : t.evba = s.evba
  memory : SameMemory s t
  cfg : t.cfg = s.cfg
  agenda : t.agenda = rest
  entered : ∀ co, s.cfg.policies.trapEntry = .family co → ArithSaved s x t

/-! ### The invariant -/

/-- What every step keeps: the implementation is well formed, memory is in canonical form, SR.FO reads 1
(R14), and an implementation without delay slots never stands in one (R190). -/
structure State.Inv (s : State) : Prop where
  config : configDefect s.cfg = none
  memory : Memory.wf s.mem = true
  fixedOne : s.srFlag srFO = true
  noSlot : s.cfg.cpucfgr.nd = true → s.delaySlot = none

end Sys2Proof.Machine
end

