-- ==== Sys2Proof/Laws/State.lean ====
section
/-! SUPPORT. One lemma per field per update of State, each true by rfl, so that no proof unfolds a record
update; and what reading a general register gives after each update. -/

namespace Sys2Proof.Machine

/-! ### writeGpr -/

@[simp] theorem State.writeGpr_cfg (s : State) (r : RegNo) (v : Word) : (s.writeGpr r v).cfg = s.cfg := rfl
@[simp] theorem State.writeGpr_gpr (s : State) (r : RegNo) (v : Word) : (s.writeGpr r v).gpr = s.gpr.set r.toNat v r.isLt := rfl
@[simp] theorem State.writeGpr_pc (s : State) (r : RegNo) (v : Word) : (s.writeGpr r v).pc = s.pc := rfl
@[simp] theorem State.writeGpr_delaySlot (s : State) (r : RegNo) (v : Word) : (s.writeGpr r v).delaySlot = s.delaySlot := rfl
@[simp] theorem State.writeGpr_sr (s : State) (r : RegNo) (v : Word) : (s.writeGpr r v).sr = s.sr := rfl
@[simp] theorem State.writeGpr_evba (s : State) (r : RegNo) (v : Word) : (s.writeGpr r v).evba = s.evba := rfl
@[simp] theorem State.writeGpr_aecr (s : State) (r : RegNo) (v : Word) : (s.writeGpr r v).aecr = s.aecr := rfl
@[simp] theorem State.writeGpr_aesr (s : State) (r : RegNo) (v : Word) : (s.writeGpr r v).aesr = s.aesr := rfl
@[simp] theorem State.writeGpr_epcr0 (s : State) (r : RegNo) (v : Word) : (s.writeGpr r v).epcr0 = s.epcr0 := rfl
@[simp] theorem State.writeGpr_eear0 (s : State) (r : RegNo) (v : Word) : (s.writeGpr r v).eear0 = s.eear0 := rfl
@[simp] theorem State.writeGpr_esr0 (s : State) (r : RegNo) (v : Word) : (s.writeGpr r v).esr0 = s.esr0 := rfl
@[simp] theorem State.writeGpr_mem (s : State) (r : RegNo) (v : Word) : (s.writeGpr r v).mem = s.mem := rfl
@[simp] theorem State.writeGpr_agenda (s : State) (r : RegNo) (v : Word) : (s.writeGpr r v).agenda = s.agenda := rfl
@[simp] theorem State.writeGpr_draws (s : State) (r : RegNo) (v : Word) : (s.writeGpr r v).draws = s.draws := rfl

/-! ### withSr -/

@[simp] theorem State.withSr_cfg (s : State) (v : Word) : (s.withSr v).cfg = s.cfg := rfl
@[simp] theorem State.withSr_gpr (s : State) (v : Word) : (s.withSr v).gpr = s.gpr := rfl
@[simp] theorem State.withSr_pc (s : State) (v : Word) : (s.withSr v).pc = s.pc := rfl
@[simp] theorem State.withSr_delaySlot (s : State) (v : Word) : (s.withSr v).delaySlot = s.delaySlot := rfl
@[simp] theorem State.withSr_sr (s : State) (v : Word) : (s.withSr v).sr = fixSr v := rfl
@[simp] theorem State.withSr_evba (s : State) (v : Word) : (s.withSr v).evba = s.evba := rfl
@[simp] theorem State.withSr_aecr (s : State) (v : Word) : (s.withSr v).aecr = s.aecr := rfl
@[simp] theorem State.withSr_aesr (s : State) (v : Word) : (s.withSr v).aesr = s.aesr := rfl
@[simp] theorem State.withSr_epcr0 (s : State) (v : Word) : (s.withSr v).epcr0 = s.epcr0 := rfl
@[simp] theorem State.withSr_eear0 (s : State) (v : Word) : (s.withSr v).eear0 = s.eear0 := rfl
@[simp] theorem State.withSr_esr0 (s : State) (v : Word) : (s.withSr v).esr0 = s.esr0 := rfl
@[simp] theorem State.withSr_mem (s : State) (v : Word) : (s.withSr v).mem = s.mem := rfl
@[simp] theorem State.withSr_agenda (s : State) (v : Word) : (s.withSr v).agenda = s.agenda := rfl
@[simp] theorem State.withSr_draws (s : State) (v : Word) : (s.withSr v).draws = s.draws := rfl

@[simp] theorem State.withSr_readGpr (s : State) (v : Word) (i : RegNo) : (s.withSr v).readGpr i = s.readGpr i := rfl

/-! ### withEvba -/

@[simp] theorem State.withEvba_cfg (s : State) (v : BitVec 19) : (s.withEvba v).cfg = s.cfg := rfl
@[simp] theorem State.withEvba_gpr (s : State) (v : BitVec 19) : (s.withEvba v).gpr = s.gpr := rfl
@[simp] theorem State.withEvba_pc (s : State) (v : BitVec 19) : (s.withEvba v).pc = s.pc := rfl
@[simp] theorem State.withEvba_delaySlot (s : State) (v : BitVec 19) : (s.withEvba v).delaySlot = s.delaySlot := rfl
@[simp] theorem State.withEvba_sr (s : State) (v : BitVec 19) : (s.withEvba v).sr = s.sr := rfl
@[simp] theorem State.withEvba_evba (s : State) (v : BitVec 19) : (s.withEvba v).evba = v := rfl
@[simp] theorem State.withEvba_aecr (s : State) (v : BitVec 19) : (s.withEvba v).aecr = s.aecr := rfl
@[simp] theorem State.withEvba_aesr (s : State) (v : BitVec 19) : (s.withEvba v).aesr = s.aesr := rfl
@[simp] theorem State.withEvba_epcr0 (s : State) (v : BitVec 19) : (s.withEvba v).epcr0 = s.epcr0 := rfl
@[simp] theorem State.withEvba_eear0 (s : State) (v : BitVec 19) : (s.withEvba v).eear0 = s.eear0 := rfl
@[simp] theorem State.withEvba_esr0 (s : State) (v : BitVec 19) : (s.withEvba v).esr0 = s.esr0 := rfl
@[simp] theorem State.withEvba_mem (s : State) (v : BitVec 19) : (s.withEvba v).mem = s.mem := rfl
@[simp] theorem State.withEvba_agenda (s : State) (v : BitVec 19) : (s.withEvba v).agenda = s.agenda := rfl
@[simp] theorem State.withEvba_draws (s : State) (v : BitVec 19) : (s.withEvba v).draws = s.draws := rfl

@[simp] theorem State.withEvba_readGpr (s : State) (v : BitVec 19) (i : RegNo) : (s.withEvba v).readGpr i = s.readGpr i := rfl

/-! ### withAecr -/

@[simp] theorem State.withAecr_cfg (s : State) (v : BitVec 7) : (s.withAecr v).cfg = s.cfg := rfl
@[simp] theorem State.withAecr_gpr (s : State) (v : BitVec 7) : (s.withAecr v).gpr = s.gpr := rfl
@[simp] theorem State.withAecr_pc (s : State) (v : BitVec 7) : (s.withAecr v).pc = s.pc := rfl
@[simp] theorem State.withAecr_delaySlot (s : State) (v : BitVec 7) : (s.withAecr v).delaySlot = s.delaySlot := rfl
@[simp] theorem State.withAecr_sr (s : State) (v : BitVec 7) : (s.withAecr v).sr = s.sr := rfl
@[simp] theorem State.withAecr_evba (s : State) (v : BitVec 7) : (s.withAecr v).evba = s.evba := rfl
@[simp] theorem State.withAecr_aecr (s : State) (v : BitVec 7) : (s.withAecr v).aecr = v := rfl
@[simp] theorem State.withAecr_aesr (s : State) (v : BitVec 7) : (s.withAecr v).aesr = s.aesr := rfl
@[simp] theorem State.withAecr_epcr0 (s : State) (v : BitVec 7) : (s.withAecr v).epcr0 = s.epcr0 := rfl
@[simp] theorem State.withAecr_eear0 (s : State) (v : BitVec 7) : (s.withAecr v).eear0 = s.eear0 := rfl
@[simp] theorem State.withAecr_esr0 (s : State) (v : BitVec 7) : (s.withAecr v).esr0 = s.esr0 := rfl
@[simp] theorem State.withAecr_mem (s : State) (v : BitVec 7) : (s.withAecr v).mem = s.mem := rfl
@[simp] theorem State.withAecr_agenda (s : State) (v : BitVec 7) : (s.withAecr v).agenda = s.agenda := rfl
@[simp] theorem State.withAecr_draws (s : State) (v : BitVec 7) : (s.withAecr v).draws = s.draws := rfl

@[simp] theorem State.withAecr_readGpr (s : State) (v : BitVec 7) (i : RegNo) : (s.withAecr v).readGpr i = s.readGpr i := rfl

/-! ### withAesr -/

@[simp] theorem State.withAesr_cfg (s : State) (v : BitVec 7) : (s.withAesr v).cfg = s.cfg := rfl
@[simp] theorem State.withAesr_gpr (s : State) (v : BitVec 7) : (s.withAesr v).gpr = s.gpr := rfl
@[simp] theorem State.withAesr_pc (s : State) (v : BitVec 7) : (s.withAesr v).pc = s.pc := rfl
@[simp] theorem State.withAesr_delaySlot (s : State) (v : BitVec 7) : (s.withAesr v).delaySlot = s.delaySlot := rfl
@[simp] theorem State.withAesr_sr (s : State) (v : BitVec 7) : (s.withAesr v).sr = s.sr := rfl
@[simp] theorem State.withAesr_evba (s : State) (v : BitVec 7) : (s.withAesr v).evba = s.evba := rfl
@[simp] theorem State.withAesr_aecr (s : State) (v : BitVec 7) : (s.withAesr v).aecr = s.aecr := rfl
@[simp] theorem State.withAesr_aesr (s : State) (v : BitVec 7) : (s.withAesr v).aesr = v := rfl
@[simp] theorem State.withAesr_epcr0 (s : State) (v : BitVec 7) : (s.withAesr v).epcr0 = s.epcr0 := rfl
@[simp] theorem State.withAesr_eear0 (s : State) (v : BitVec 7) : (s.withAesr v).eear0 = s.eear0 := rfl
@[simp] theorem State.withAesr_esr0 (s : State) (v : BitVec 7) : (s.withAesr v).esr0 = s.esr0 := rfl
@[simp] theorem State.withAesr_mem (s : State) (v : BitVec 7) : (s.withAesr v).mem = s.mem := rfl
@[simp] theorem State.withAesr_agenda (s : State) (v : BitVec 7) : (s.withAesr v).agenda = s.agenda := rfl
@[simp] theorem State.withAesr_draws (s : State) (v : BitVec 7) : (s.withAesr v).draws = s.draws := rfl

@[simp] theorem State.withAesr_readGpr (s : State) (v : BitVec 7) (i : RegNo) : (s.withAesr v).readGpr i = s.readGpr i := rfl

/-! ### withDraws -/

@[simp] theorem State.withDraws_cfg (s : State) (n : Nat) : (s.withDraws n).cfg = s.cfg := rfl
@[simp] theorem State.withDraws_gpr (s : State) (n : Nat) : (s.withDraws n).gpr = s.gpr := rfl
@[simp] theorem State.withDraws_pc (s : State) (n : Nat) : (s.withDraws n).pc = s.pc := rfl
@[simp] theorem State.withDraws_delaySlot (s : State) (n : Nat) : (s.withDraws n).delaySlot = s.delaySlot := rfl
@[simp] theorem State.withDraws_sr (s : State) (n : Nat) : (s.withDraws n).sr = s.sr := rfl
@[simp] theorem State.withDraws_evba (s : State) (n : Nat) : (s.withDraws n).evba = s.evba := rfl
@[simp] theorem State.withDraws_aecr (s : State) (n : Nat) : (s.withDraws n).aecr = s.aecr := rfl
@[simp] theorem State.withDraws_aesr (s : State) (n : Nat) : (s.withDraws n).aesr = s.aesr := rfl
@[simp] theorem State.withDraws_epcr0 (s : State) (n : Nat) : (s.withDraws n).epcr0 = s.epcr0 := rfl
@[simp] theorem State.withDraws_eear0 (s : State) (n : Nat) : (s.withDraws n).eear0 = s.eear0 := rfl
@[simp] theorem State.withDraws_esr0 (s : State) (n : Nat) : (s.withDraws n).esr0 = s.esr0 := rfl
@[simp] theorem State.withDraws_mem (s : State) (n : Nat) : (s.withDraws n).mem = s.mem := rfl
@[simp] theorem State.withDraws_agenda (s : State) (n : Nat) : (s.withDraws n).agenda = s.agenda := rfl
@[simp] theorem State.withDraws_draws (s : State) (n : Nat) : (s.withDraws n).draws = n := rfl

@[simp] theorem State.withDraws_readGpr (s : State) (n : Nat) (i : RegNo) : (s.withDraws n).readGpr i = s.readGpr i := rfl

/-! ### withAgenda -/

@[simp] theorem State.withAgenda_cfg (s : State) (a : List Input) : (s.withAgenda a).cfg = s.cfg := rfl
@[simp] theorem State.withAgenda_gpr (s : State) (a : List Input) : (s.withAgenda a).gpr = s.gpr := rfl
@[simp] theorem State.withAgenda_pc (s : State) (a : List Input) : (s.withAgenda a).pc = s.pc := rfl
@[simp] theorem State.withAgenda_delaySlot (s : State) (a : List Input) : (s.withAgenda a).delaySlot = s.delaySlot := rfl
@[simp] theorem State.withAgenda_sr (s : State) (a : List Input) : (s.withAgenda a).sr = s.sr := rfl
@[simp] theorem State.withAgenda_evba (s : State) (a : List Input) : (s.withAgenda a).evba = s.evba := rfl
@[simp] theorem State.withAgenda_aecr (s : State) (a : List Input) : (s.withAgenda a).aecr = s.aecr := rfl
@[simp] theorem State.withAgenda_aesr (s : State) (a : List Input) : (s.withAgenda a).aesr = s.aesr := rfl
@[simp] theorem State.withAgenda_epcr0 (s : State) (a : List Input) : (s.withAgenda a).epcr0 = s.epcr0 := rfl
@[simp] theorem State.withAgenda_eear0 (s : State) (a : List Input) : (s.withAgenda a).eear0 = s.eear0 := rfl
@[simp] theorem State.withAgenda_esr0 (s : State) (a : List Input) : (s.withAgenda a).esr0 = s.esr0 := rfl
@[simp] theorem State.withAgenda_mem (s : State) (a : List Input) : (s.withAgenda a).mem = s.mem := rfl
@[simp] theorem State.withAgenda_agenda (s : State) (a : List Input) : (s.withAgenda a).agenda = a := rfl
@[simp] theorem State.withAgenda_draws (s : State) (a : List Input) : (s.withAgenda a).draws = s.draws := rfl

@[simp] theorem State.withAgenda_readGpr (s : State) (a : List Input) (i : RegNo) : (s.withAgenda a).readGpr i = s.readGpr i := rfl

/-! ### withMem -/

@[simp] theorem State.withMem_cfg (s : State) (m : Memory) : (s.withMem m).cfg = s.cfg := rfl
@[simp] theorem State.withMem_gpr (s : State) (m : Memory) : (s.withMem m).gpr = s.gpr := rfl
@[simp] theorem State.withMem_pc (s : State) (m : Memory) : (s.withMem m).pc = s.pc := rfl
@[simp] theorem State.withMem_delaySlot (s : State) (m : Memory) : (s.withMem m).delaySlot = s.delaySlot := rfl
@[simp] theorem State.withMem_sr (s : State) (m : Memory) : (s.withMem m).sr = s.sr := rfl
@[simp] theorem State.withMem_evba (s : State) (m : Memory) : (s.withMem m).evba = s.evba := rfl
@[simp] theorem State.withMem_aecr (s : State) (m : Memory) : (s.withMem m).aecr = s.aecr := rfl
@[simp] theorem State.withMem_aesr (s : State) (m : Memory) : (s.withMem m).aesr = s.aesr := rfl
@[simp] theorem State.withMem_epcr0 (s : State) (m : Memory) : (s.withMem m).epcr0 = s.epcr0 := rfl
@[simp] theorem State.withMem_eear0 (s : State) (m : Memory) : (s.withMem m).eear0 = s.eear0 := rfl
@[simp] theorem State.withMem_esr0 (s : State) (m : Memory) : (s.withMem m).esr0 = s.esr0 := rfl
@[simp] theorem State.withMem_mem (s : State) (m : Memory) : (s.withMem m).mem = m := rfl
@[simp] theorem State.withMem_agenda (s : State) (m : Memory) : (s.withMem m).agenda = s.agenda := rfl
@[simp] theorem State.withMem_draws (s : State) (m : Memory) : (s.withMem m).draws = s.draws := rfl

@[simp] theorem State.withMem_readGpr (s : State) (m : Memory) (i : RegNo) : (s.withMem m).readGpr i = s.readGpr i := rfl

/-! ### advance -/

@[simp] theorem State.advance_cfg (s : State) : (s.advance).cfg = s.cfg := rfl
@[simp] theorem State.advance_gpr (s : State) : (s.advance).gpr = s.gpr := rfl
@[simp] theorem State.advance_pc (s : State) : (s.advance).pc = s.nextPc := rfl
@[simp] theorem State.advance_delaySlot (s : State) : (s.advance).delaySlot = none := rfl
@[simp] theorem State.advance_sr (s : State) : (s.advance).sr = s.sr := rfl
@[simp] theorem State.advance_evba (s : State) : (s.advance).evba = s.evba := rfl
@[simp] theorem State.advance_aecr (s : State) : (s.advance).aecr = s.aecr := rfl
@[simp] theorem State.advance_aesr (s : State) : (s.advance).aesr = s.aesr := rfl
@[simp] theorem State.advance_epcr0 (s : State) : (s.advance).epcr0 = s.epcr0 := rfl
@[simp] theorem State.advance_eear0 (s : State) : (s.advance).eear0 = s.eear0 := rfl
@[simp] theorem State.advance_esr0 (s : State) : (s.advance).esr0 = s.esr0 := rfl
@[simp] theorem State.advance_mem (s : State) : (s.advance).mem = s.mem := rfl
@[simp] theorem State.advance_agenda (s : State) : (s.advance).agenda = s.agenda := rfl
@[simp] theorem State.advance_draws (s : State) : (s.advance).draws = s.draws := rfl

@[simp] theorem State.advance_readGpr (s : State) (i : RegNo) : (s.advance).readGpr i = s.readGpr i := rfl

/-! ### goTo -/

@[simp] theorem State.goTo_cfg (s : State) (t : Word) : (s.goTo t).cfg = s.cfg := rfl
@[simp] theorem State.goTo_gpr (s : State) (t : Word) : (s.goTo t).gpr = s.gpr := rfl
@[simp] theorem State.goTo_pc (s : State) (t : Word) : (s.goTo t).pc = t := rfl
@[simp] theorem State.goTo_delaySlot (s : State) (t : Word) : (s.goTo t).delaySlot = none := rfl
@[simp] theorem State.goTo_sr (s : State) (t : Word) : (s.goTo t).sr = s.sr := rfl
@[simp] theorem State.goTo_evba (s : State) (t : Word) : (s.goTo t).evba = s.evba := rfl
@[simp] theorem State.goTo_aecr (s : State) (t : Word) : (s.goTo t).aecr = s.aecr := rfl
@[simp] theorem State.goTo_aesr (s : State) (t : Word) : (s.goTo t).aesr = s.aesr := rfl
@[simp] theorem State.goTo_epcr0 (s : State) (t : Word) : (s.goTo t).epcr0 = s.epcr0 := rfl
@[simp] theorem State.goTo_eear0 (s : State) (t : Word) : (s.goTo t).eear0 = s.eear0 := rfl
@[simp] theorem State.goTo_esr0 (s : State) (t : Word) : (s.goTo t).esr0 = s.esr0 := rfl
@[simp] theorem State.goTo_mem (s : State) (t : Word) : (s.goTo t).mem = s.mem := rfl
@[simp] theorem State.goTo_agenda (s : State) (t : Word) : (s.goTo t).agenda = s.agenda := rfl
@[simp] theorem State.goTo_draws (s : State) (t : Word) : (s.goTo t).draws = s.draws := rfl

@[simp] theorem State.goTo_readGpr (s : State) (t : Word) (i : RegNo) : (s.goTo t).readGpr i = s.readGpr i := rfl

/-! ### enterSlot -/

@[simp] theorem State.enterSlot_cfg (s : State) (t : Word) : (s.enterSlot t).cfg = s.cfg := rfl
@[simp] theorem State.enterSlot_gpr (s : State) (t : Word) : (s.enterSlot t).gpr = s.gpr := rfl
@[simp] theorem State.enterSlot_pc (s : State) (t : Word) : (s.enterSlot t).pc = s.pc + 4 := rfl
@[simp] theorem State.enterSlot_delaySlot (s : State) (t : Word) : (s.enterSlot t).delaySlot = some t := rfl
@[simp] theorem State.enterSlot_sr (s : State) (t : Word) : (s.enterSlot t).sr = s.sr := rfl
@[simp] theorem State.enterSlot_evba (s : State) (t : Word) : (s.enterSlot t).evba = s.evba := rfl
@[simp] theorem State.enterSlot_aecr (s : State) (t : Word) : (s.enterSlot t).aecr = s.aecr := rfl
@[simp] theorem State.enterSlot_aesr (s : State) (t : Word) : (s.enterSlot t).aesr = s.aesr := rfl
@[simp] theorem State.enterSlot_epcr0 (s : State) (t : Word) : (s.enterSlot t).epcr0 = s.epcr0 := rfl
@[simp] theorem State.enterSlot_eear0 (s : State) (t : Word) : (s.enterSlot t).eear0 = s.eear0 := rfl
@[simp] theorem State.enterSlot_esr0 (s : State) (t : Word) : (s.enterSlot t).esr0 = s.esr0 := rfl
@[simp] theorem State.enterSlot_mem (s : State) (t : Word) : (s.enterSlot t).mem = s.mem := rfl
@[simp] theorem State.enterSlot_agenda (s : State) (t : Word) : (s.enterSlot t).agenda = s.agenda := rfl
@[simp] theorem State.enterSlot_draws (s : State) (t : Word) : (s.enterSlot t).draws = s.draws := rfl

@[simp] theorem State.enterSlot_readGpr (s : State) (t : Word) (i : RegNo) : (s.enterSlot t).readGpr i = s.readGpr i := rfl

/-! ### returnFromException -/

@[simp] theorem State.returnFromException_cfg (s : State) : (s.returnFromException).cfg = s.cfg := rfl
@[simp] theorem State.returnFromException_gpr (s : State) : (s.returnFromException).gpr = s.gpr := rfl
@[simp] theorem State.returnFromException_pc (s : State) : (s.returnFromException).pc = s.epcr0 := rfl
@[simp] theorem State.returnFromException_delaySlot (s : State) : (s.returnFromException).delaySlot = none := rfl
@[simp] theorem State.returnFromException_sr (s : State) : (s.returnFromException).sr = fixSr s.esr0 := rfl
@[simp] theorem State.returnFromException_evba (s : State) : (s.returnFromException).evba = s.evba := rfl
@[simp] theorem State.returnFromException_aecr (s : State) : (s.returnFromException).aecr = s.aecr := rfl
@[simp] theorem State.returnFromException_aesr (s : State) : (s.returnFromException).aesr = s.aesr := rfl
@[simp] theorem State.returnFromException_epcr0 (s : State) : (s.returnFromException).epcr0 = s.epcr0 := rfl
@[simp] theorem State.returnFromException_eear0 (s : State) : (s.returnFromException).eear0 = s.eear0 := rfl
@[simp] theorem State.returnFromException_esr0 (s : State) : (s.returnFromException).esr0 = s.esr0 := rfl
@[simp] theorem State.returnFromException_mem (s : State) : (s.returnFromException).mem = s.mem := rfl
@[simp] theorem State.returnFromException_agenda (s : State) : (s.returnFromException).agenda = s.agenda := rfl
@[simp] theorem State.returnFromException_draws (s : State) : (s.returnFromException).draws = s.draws := rfl

@[simp] theorem State.returnFromException_readGpr (s : State) (i : RegNo) : (s.returnFromException).readGpr i = s.readGpr i := rfl

/-! ### Reading a general register after writing one -/

/-- The written register reads as the value, every other one as before. -/
theorem State.readGpr_writeGpr (s : State) (r i : RegNo) (v : Word) :
    (s.writeGpr r v).readGpr i = if i = r then v else s.readGpr i := by
  unfold State.readGpr State.writeGpr
  by_cases h : i = r
  · subst h; simp
  · have : r.toNat ≠ i.toNat := fun e => h (BitVec.eq_of_toNat_eq e.symm)
    simp [this, h]

@[simp] theorem State.readGpr_writeGpr_self (s : State) (r : RegNo) (v : Word) :
    (s.writeGpr r v).readGpr r = v := by simp [State.readGpr_writeGpr]

theorem State.readGpr_writeGpr_ne (s : State) {r i : RegNo} (v : Word) (h : i ≠ r) :
    (s.writeGpr r v).readGpr i = s.readGpr i := by simp [State.readGpr_writeGpr, h]

end Sys2Proof.Machine
end

