-- ==== Sys2Proof/Laws/Bits.lean ====
section
/-! SUPPORT. The laws of the bit-field helpers: the bits of a placed field, reading a field back, one
flag of a word after another is set, and the four bytes of a word. -/

namespace Sys2Proof.Machine

/-- Bit `i` of a field placed at `lo`. -/
theorem getLsbD_placeBits {n : Nat} (lo : Nat) (x : BitVec n) (i : Nat) :
    (placeBits lo x).getLsbD i = (decide (i < 32) && decide (lo ≤ i) && x.getLsbD (i - lo)) := by
  simp only [placeBits, BitVec.getLsbD_shiftLeft, BitVec.getLsbD_setWidth]
  by_cases h : i < 32 <;> by_cases h2 : lo ≤ i
  · have h3 : i - lo < 32 := by omega
    have h4 : ¬ i < lo := by omega
    simp [h, h2, h3, h4]
  · have h4 : i < lo := by omega
    simp [h, h2, h4]
  · simp [h]
  · simp [h]

/-- Bit `i` of a flag placed at `lo`. -/
theorem getLsbD_placeFlag (lo : Nat) (b : Bool) (i : Nat) :
    (placeFlag lo b).getLsbD i = (decide (i < 32) && decide (i = lo) && b) := by
  simp only [placeFlag, getLsbD_placeBits]
  by_cases h : i = lo
  · subst h; simp
  · by_cases h2 : lo ≤ i
    · have : i - lo ≠ 0 := by omega
      simp [h, this]
    · simp [h, h2]

/-- Bit `i` of a field read from a word. -/
theorem getLsbD_takeBits (lo n : Nat) (v : Word) (i : Nat) :
    (takeBits lo n v).getLsbD i = (decide (i < n) && v.getLsbD (lo + i)) := by
  simp [takeBits]

/-- A field read back from where it was placed. -/
theorem takeBits_placeBits {n : Nat} {lo : Nat} (x : BitVec n) (h : lo + n ≤ 32) :
    takeBits lo n (placeBits lo x) = x := by
  apply BitVec.eq_of_getLsbD_eq
  intro i hi
  have h1 : lo + i < 32 := by omega
  have h2 : lo + i - lo = i := by omega
  simp only [getLsbD_takeBits, getLsbD_placeBits, hi, h1, h2, Nat.le_add_right, decide_true, Bool.true_and]

/-- A field that shares no bit with the one read adds nothing to it. -/
theorem takeBits_placeBits_apart {n m : Nat} {lo lo' : Nat} (x : BitVec m)
    (h : lo + n ≤ lo' ∨ lo' + m ≤ lo) : takeBits lo n (placeBits lo' x) = 0#n := by
  apply BitVec.eq_of_getLsbD_eq
  intro i hi
  simp only [getLsbD_takeBits, getLsbD_placeBits, BitVec.getLsbD_zero, hi, decide_true, Bool.true_and]
  rcases h with h | h
  · have : ¬ lo' ≤ lo + i := by omega
    simp [this]
  · by_cases h2 : lo' ≤ lo + i
    · have : x.getLsbD (lo + i - lo') = false := BitVec.getLsbD_of_ge _ _ (by omega)
      simp [this]
    · simp [h2]

/-- Reading a field of a union of words. -/
theorem takeBits_or (lo n : Nat) (v w : Word) :
    takeBits lo n (v ||| w) = takeBits lo n v ||| takeBits lo n w := by
  apply BitVec.eq_of_getLsbD_eq
  intro i hi
  simp only [getLsbD_takeBits, BitVec.getLsbD_or, hi, decide_true, Bool.true_and]

/-- Bit `j` after bit `i` is set to `b`. -/
theorem getLsbD_setFlag (v : Word) (i : Nat) (b : Bool) (j : Nat) (hj : j < 32) :
    (setFlag v i b).getLsbD j = if j = i then b else v.getLsbD j := by
  unfold setFlag
  cases b
  · simp only [Bool.false_eq_true, if_false, BitVec.getLsbD_and, BitVec.getLsbD_not, getLsbD_placeFlag, hj,
      decide_true, Bool.true_and, Bool.and_true]
    by_cases h : j = i <;> simp [h]
  · simp only [if_true, BitVec.getLsbD_or, getLsbD_placeFlag, hj, decide_true, Bool.true_and, Bool.and_true]
    by_cases h : j = i <;> simp [h]

/-- SR.FO reads 1 whatever is stored (R14). -/
@[simp] theorem fixSr_fo (v : Word) : (fixSr v).getLsbD srFO = true := by
  unfold fixSr
  rw [getLsbD_setFlag _ _ _ _ (by decide)]
  simp

/-- Every other bit of SR is the stored one. -/
theorem fixSr_getLsbD (v : Word) (j : Nat) (hj : j < 32) (h : j ≠ srFO) :
    (fixSr v).getLsbD j = v.getLsbD j := by
  unfold fixSr
  rw [getLsbD_setFlag _ _ _ _ hj]
  simp [h]

/-- A word whose FO bit is 1 is stored as it is. -/
theorem fixSr_of_fo (v : Word) (h : v.getLsbD srFO = true) : fixSr v = v := by
  apply BitVec.eq_of_getLsbD_eq
  intro i hi
  by_cases hf : i = srFO
  · subst hf; simp [h]
  · exact fixSr_getLsbD v i hi hf

/-- The bits of seven flags. -/
theorem getLsbD_sevenBits (b0 b1 b2 b3 b4 b5 b6 : Bool) :
    (sevenBits b0 b1 b2 b3 b4 b5 b6).getLsbD 0 = b0 ∧ (sevenBits b0 b1 b2 b3 b4 b5 b6).getLsbD 1 = b1 ∧
    (sevenBits b0 b1 b2 b3 b4 b5 b6).getLsbD 2 = b2 ∧ (sevenBits b0 b1 b2 b3 b4 b5 b6).getLsbD 3 = b3 ∧
    (sevenBits b0 b1 b2 b3 b4 b5 b6).getLsbD 4 = b4 ∧ (sevenBits b0 b1 b2 b3 b4 b5 b6).getLsbD 5 = b5 ∧
    (sevenBits b0 b1 b2 b3 b4 b5 b6).getLsbD 6 = b6 := by
  revert b0 b1 b2 b3 b4 b5 b6; decide

/-- A seven-bit number is its seven flags. -/
theorem sevenBits_getLsbD (b : BitVec 7) :
    sevenBits (b.getLsbD 0) (b.getLsbD 1) (b.getLsbD 2) (b.getLsbD 3) (b.getLsbD 4) (b.getLsbD 5)
      (b.getLsbD 6) = b := by
  revert b; decide

/-- The bytes of a word make the word again, in either byte order. -/
theorem decodeBytes_wordBytes (o : ByteOrder) (w : Word) : decodeBytes o (wordBytes o w) = decode w := by
  have h : takeBits 24 8 w ++ takeBits 16 8 w ++ takeBits 8 8 w ++ takeBits 0 8 w = w := by
    apply BitVec.eq_of_getLsbD_eq
    intro i hi
    simp only [BitVec.getLsbD_append, getLsbD_takeBits]
    rcases Nat.lt_or_ge i 8 with h | h
    · simp [h]
    · rcases Nat.lt_or_ge i 16 with h2 | h2
      · have e : 8 + (i - 8) = i := by omega
        have l : i - 8 < 8 := by omega
        simp [Nat.not_lt.mpr h, e, l]
      · rcases Nat.lt_or_ge i 24 with h3 | h3
        · have e : 16 + (i - 8 - 8) = i := by omega
          have l : i - 8 - 8 < 8 := by omega
          have m : ¬ i - 8 < 8 := by omega
          simp [Nat.not_lt.mpr h, m, e, l]
        · have e : 24 + (i - 8 - 8 - 8) = i := by omega
          have l : i - 8 - 8 - 8 < 8 := by omega
          have m : ¬ i - 8 < 8 := by omega
          have q : ¬ i - 8 - 8 < 8 := by omega
          simp [Nat.not_lt.mpr h, m, q, e, l]
  cases o <;> simp [decodeBytes, wordBytes, bytesWord, h]

end Sys2Proof.Machine
end

