-- ==== Sys2Proof/Laws/Encoding.lean ====
section
/-! SUPPORT. The bits of an encoded word, field by field (30_encoding.md R101 to R103). -/

namespace Sys2Proof

open Sys2Proof.Machine

/-- Bit `i` of the word of `l.mfspr rD,rA,K`. -/
theorem getLsbD_encode_mfspr (d a : RegNo) (k : SprAddr) (i : Nat) :
    (encode (.mfspr d a k)).getLsbD i =
      if i < 16 then k.getLsbD i
      else if i < 21 then a.getLsbD (i - 16)
      else if i < 26 then d.getLsbD (i - 21)
      else opMfspr.getLsbD (i - 26) := by
  simp only [encode, BitVec.getLsbD_append]
  repeat' split
  all_goals first | (exfalso; omega) | rfl

/-- Bit `i` of the word of `l.mtspr rA,rB,K`. -/
theorem getLsbD_encode_mtspr (a b : RegNo) (k : SprAddr) (i : Nat) :
    (encode (.mtspr a b k)).getLsbD i =
      if i < 11 then k.getLsbD i
      else if i < 16 then b.getLsbD (i - 11)
      else if i < 21 then a.getLsbD (i - 16)
      else if i < 26 then k.getLsbD (i - 10)
      else opMtspr.getLsbD (i - 26) := by
  simp only [encode, BitVec.getLsbD_append, getLsbD_takeBits, BitVec.getLsbD_setWidth]
  by_cases h1 : i < 11
  · have h : i < 32 := by omega
    simp [h1, h]
  · by_cases h2 : i < 16
    · have h : i - 11 < 5 := by omega
      simp [h1, h2, h]
    · by_cases h3 : i < 21
      · have h : ¬ i - 11 < 5 := by omega
        have h' : i - 11 - 5 < 5 := by omega
        have e : i - 11 - 5 = i - 16 := by omega
        have h'' : i - 16 < 5 := by omega
        simp [h1, h2, h3, h, e, h'']
      · by_cases h4 : i < 26
        · have h : ¬ i - 11 < 5 := by omega
          have e : i - 11 - 5 = i - 16 := by omega
          have h'' : ¬ i - 16 < 5 := by omega
          have h5 : i - 16 - 5 < 5 := by omega
          have e2 : 11 + (i - 16 - 5) = i - 10 := by omega
          have h6 : i - 10 < 32 := by omega
          simp [h1, h2, h3, h4, h, e, h'', h5, e2, h6]
        · have h : ¬ i - 11 < 5 := by omega
          have e : i - 11 - 5 = i - 16 := by omega
          have h'' : ¬ i - 16 < 5 := by omega
          have h5 : ¬ i - 16 - 5 < 5 := by omega
          have e2 : i - 16 - 5 - 5 = i - 26 := by omega
          simp [h1, h2, h3, h4, h, e, h'', h5, e2]

end Sys2Proof
end

