-- ==== Sys2Proof/Laws/PerInstr.lean ====
section
/-! SUPPORT. Statements made per instruction: one lemma per constructor of Instr. -/

namespace Sys2Proof.Laws

open Sys2Proof Sys2Proof.Machine

/-- The match word of an instruction's row of spec/opcode_table.json (R105). -/
def tableMatch : Instr → Word
  | .mfspr _ _ _ => 0xB4000000
  | .mtspr _ _ _ => 0xC0000000

/-- The mask of both rows (R101, R102). -/
def tableMask : Word := 0xFC000000

/-- The encoded word of an instruction lies in its own row of the opcode table. -/
def EncodedInRow.Statement (i : Instr) : Prop := encode i &&& tableMask = tableMatch i

theorem EncodedInRow.mfspr (d a : RegNo) (k : SprAddr) : EncodedInRow.Statement (.mfspr d a k) := by
  unfold EncodedInRow.Statement
  apply BitVec.eq_of_getLsbD_eq
  intro i hi
  rw [BitVec.getLsbD_and, getLsbD_encode_mfspr]
  interval_cases i <;> simp [tableMask, tableMatch, opMfspr]

theorem EncodedInRow.mtspr (a b : RegNo) (k : SprAddr) : EncodedInRow.Statement (.mtspr a b k) := by
  unfold EncodedInRow.Statement
  apply BitVec.eq_of_getLsbD_eq
  intro i hi
  rw [BitVec.getLsbD_and, getLsbD_encode_mtspr]
  interval_cases i <;> simp [tableMask, tableMatch, opMtspr]

end Sys2Proof.Laws
end

