-- ==== Sys2Proof/Certificates/Slice0/Obligations.lean ====
section
/-! DEFINITION. The statements for the provers. Each docstring names the rule of spec/ it formalises or
rests on; a clause that rests on a choice of the model names its log entry. -/

open Sys2Proof Sys2Proof.Machine

/-! ### Encoding (30_encoding.md) -/

/-- Decoding the word of an instruction gives the instruction back, every operand at every value
(R101, R102, R103). -/
def Obligations.DecodeOfEncode : Prop := ∀ i : Instr, decode (encode i) = .insn i

/-- A word that decodes to an instruction is that instruction's word: the formats have no spare bit
(R101, R102, R106). -/
def Obligations.EncodeOfDecode : Prop := ∀ (w : Word) (i : Instr), decode w = .insn i → encode i = w

/-- The opcode map (R105): the match and mask of its two rows decide what a word is, `l.mfspr`,
`l.mtspr` or not specified, and a word that is neither is refused as outside the spec, wherever it is
fetched. -/
def Obligations.OpcodeMapHasTwoRows : Prop :=
  (∀ w : Word,
    (w &&& 0xFC000000#32 = 0xB4000000#32 ↔ ∃ d a k, decode w = .insn (.mfspr d a k)) ∧
    (w &&& 0xFC000000#32 = 0xC0000000#32 ↔ ∃ a b k, decode w = .insn (.mtspr a b k)) ∧
    ((w &&& 0xFC000000#32 ≠ 0xB4000000#32 ∧ w &&& 0xFC000000#32 ≠ 0xC0000000#32) ↔
      decode w = .rejected .notSpecified)) ∧
  (∀ (s : State) (w : Word), configDefect s.cfg = none →
    w.extractLsb' 26 6 ≠ 0x2D#6 → w.extractLsb' 26 6 ≠ 0x30#6 →
    step (s.withFetchWord 32 w.toNat) = .refused (.instructionOutsideSpec .notSpecified))

/-- The eight encodings R109 tabulates decode to the instructions it names. -/
def Obligations.TabulatedWordsDecode : Prop :=
  decode 0xB4600000 = .insn (.mfspr 3 0 0) ∧ decode 0xB4600011 = .insn (.mfspr 3 0 17) ∧
  decode 0xB7FFFFFF = .insn (.mfspr 31 31 0xFFFF) ∧ decode 0xC000180C = .insn (.mtspr 0 3 12) ∧
  decode 0xC0001811 = .insn (.mtspr 0 3 17) ∧ decode 0xC0201800 = .insn (.mtspr 0 3 0x0800) ∧
  decode 0xC1401805 = .insn (.mtspr 0 3 0x5005) ∧ decode 0xC3FFFFFF = .insn (.mtspr 31 31 0xFFFF)

/-- The immediate of each format and its use: MFSPR's K is bits 15:0, MTSPR's is bits 25:21 above bits
10:0, and both are zero-extended before they are ORed with the base register (R103, R104). -/
def Obligations.ImmediateAssembly : Prop :=
  (∀ (w : Word) d a k, decode w = .insn (.mfspr d a k) → k = w.extractLsb' 0 16) ∧
  (∀ (w : Word) a b k, decode w = .insn (.mtspr a b k) → k = w.extractLsb' 21 5 ++ w.extractLsb' 0 11) ∧
  (∀ (s : State) (a : RegNo) (k : SprAddr), s.sprEa a k = s.readGpr a ||| (0#16 ++ k))

/-! ### The step and its fetch -/

/-- A step runs the instruction its bytes decode to: where the four bytes from an aligned pc up decode to
a well-formed instruction, the step is `exec` of it, with nothing added but the agenda's head taken off
(R100, R197). -/
def Obligations.StepRunsDecodedInstruction : Prop :=
  ∀ (s : State) (b0 b1 b2 b3 : Byte) (i : Instr),
    configDefect s.cfg = none → wordAligned s.pc = true →
    Memory.read s.mem s.pc.toNat = some b0 → Memory.read s.mem (s.pc + 1).toNat = some b1 →
    Memory.read s.mem (s.pc + 2).toNat = some b2 → Memory.read s.mem (s.pc + 3).toNat = some b3 →
    decodeBytes s.cfg.byteOrder [b0, b1, b2, b3] = .insn i → i.wellFormed s.cfg = true →
    (s.agenda = [] → step s = exec i s) ∧
    (∀ rest, s.agenda = .instruction :: rest → step s = exec i (s.withAgenda rest))

/-- An instruction placed by `withFetchWord` is the one the next step runs, from every state of a
well-formed implementation; at an aligned pc, the placing changes memory and the agenda alone (the
model's own loading, log 11). -/
def Obligations.PlacedInstructionRuns : Prop :=
  ∀ (s : State) (i : Instr), configDefect s.cfg = none →
    step (s.withFetchWord 32 (encode i).toNat) = exec i (s.withFetchWord 32 (encode i).toNat) ∧
    (wordAligned s.pc = true →
      s.withFetchWord 32 (encode i).toNat =
        (s.withMem (s.withFetchWord 32 (encode i).toNat).mem).withAgenda [])

/-- The model's choice at a pc it cannot fetch from: a misaligned pc takes the alignment exception, its
address in EEAR0 (log 16), memory staying over an entry left open too (log 15); a byte that nothing has
placed faults (log 10). -/
def Obligations.FetchThatFindsNoInstruction : Prop :=
  ∀ s : State, configDefect s.cfg = none → s.nextInput = .instruction →
    (wordAligned s.pc = false →
      ∃ t, step s = .next t ∧ t.pc = s.vectorAddress .alignment ∧ t.supervisor = true ∧
        SameBlock s t ∧ SameMemory s t ∧
        ∀ co, s.cfg.policies.trapEntry = .family co →
          SameGprs s t ∧ t.eear0 = s.pc ∧ t.epcr0 = s.returnAddress ∧ t.esr0 = s.sr) ∧
    (wordAligned s.pc = true → Memory.read s.mem s.pc.toNat = none → step s = .fault .fetchUnwritten)

/-! ### The implementation (10_state.md sections 19 and 20) -/

/-- An ill-formed implementation is refused as a whole: every step and every instruction (R4, D22). -/
def Obligations.IllFormedConfigIsRefused : Prop :=
  ∀ (s : State) (why : ConfigDefect) (i : Instr), configDefect s.cfg = some why →
    step s = .refused (.illFormedConfig why) ∧ exec i s = .refused (.illFormedConfig why)

/-- The checks of a `Config`: it is well formed exactly when it passes `ver_legal` (R70), `cfg_legal`'s
range (R71), `uvrp_consistent` (R72), `ranges_legal` for the present units (R73), `upr_consistent` (R75),
has the general registers R12 gives it, XLEN = 32 (D1), and a `LAYOUT` and a `SPRNUM` without collisions
(D2, D3). That the last four are checks of the implementation is the model's choice (logs 6, 27). -/
def Obligations.WellFormedConfigIsLegal : Prop :=
  ∀ c : Config, configDefect c = none ↔
    (0x10 ≤ c.vr.ver.toNat ∧ c.vr.ver.toNat ≤ 0x19) ∧ c.vr.cfg.toNat ≤ 99 ∧
    (c.vr.uvrp = true → present c .vr2 = true ∧ present c .avr = true) ∧
    ((c.upr.dmp = true → c.dmmucfgr.nae.toNat ≤ 4) ∧ (c.upr.imp = true → c.immucfgr.nae.toNat ≤ 4) ∧
      (c.upr.dcp = true → c.dccfgr.ncw.toNat ≤ 5 ∧ c.dccfgr.ncs.toNat ≤ 10) ∧
      (c.upr.icp = true → c.iccfgr.ncw.toNat ≤ 5 ∧ c.iccfgr.ncs.toNat ≤ 10)) ∧
    (c.upr.up = false →
      c.upr = { up := false, dcp := false, icp := false, dmp := false, imp := false, mp := false,
                dup := false, pcup := false, pmp := false, picp := false, ttp := false, cup := 0 }) ∧
    (c.cpucfgr.cgf = false → c.ngpr = 32) ∧ (c.cpucfgr.cgf = true → c.ngpr < 32) ∧
    c.xlen = .x32 ∧ layoutFits c.layout = true ∧
    (∀ r, sprAddrOf c.sprNum r ≠ c.sprNum.sr) ∧
    (∀ r r', sprAddrOf c.sprNum r = sprAddrOf c.sprNum r' → r = r')

/-- Without configuration registers only VR and UPR are present on a well-formed implementation: R22's
bound and R68's presence predicates, with R72 for VR2. -/
def Obligations.NoConfigRegistersLeaveTwo : Prop :=
  ∀ (c : Config) (r : Spr), configDefect c = none → 50 ≤ c.vr.cfg.toNat →
    (present c r = true ↔ r = .vr ∨ r = .upr)

/-- Software that reads VR, and CPUCFGR where VR announces it, learns exactly which registers are present:
UVRP announces VR2, CFG below 50 the seven configuration registers, and the bits of CPUCFGR the others
(R68, R185), under the default `LAYOUT`. -/
def Obligations.ReadImagesAnnouncePresence : Prop :=
  ∀ s : State, s.cfg.layout = defaultLayout →
    (s.image .vr).getLsbD 6 = present s.cfg .vr2 ∧
    (∀ r, r ∈ [Spr.cpucfgr, .dmmucfgr, .immucfgr, .dccfgr, .iccfgr, .dcfgr, .pccfgr] →
      (present s.cfg r = true ↔ ((s.image .vr).extractLsb' 16 8).toNat < 50)) ∧
    (present s.cfg .cpucfgr = true →
      (s.image .cpucfgr).getLsbD 11 = present s.cfg .avr ∧
      (s.image .cpucfgr).getLsbD 12 = present s.cfg .evbar ∧
      (∀ i, (s.image .cpucfgr).getLsbD 13 = present s.cfg (.isr i)) ∧
      (s.image .cpucfgr).getLsbD 14 = present s.cfg .aecr ∧
      (s.image .cpucfgr).getLsbD 14 = present s.cfg .aesr)

/-- The bounds of every derived quantity of a well-formed implementation, in the order of R33 to R47: at
most fifteen shadow files; TLBs of 1 to 4 ways, 1 to 128 sets and 1 to 512 entries; ATBs of at most 4
entries; caches of 1 to 32 ways, 1 to 1024 sets, blocks of 16 or 32 bytes, and 16 to 1 048 576 bytes; one
to eight debug pairs and performance counters. The elided rows are log 26. -/
def Obligations.GeometryBounds : Prop :=
  ∀ c : Config, configDefect c = none →
    (∀ n, shadowGprFiles c = some n → n ≤ 15) ∧
    (∀ n, dtlbWays c = some n ∨ itlbWays c = some n → 1 ≤ n ∧ n ≤ 4) ∧
    (∀ n, dtlbSets c = some n ∨ itlbSets c = some n → 1 ≤ n ∧ n ≤ 128) ∧
    (∀ n, dtlbEntries c = some n ∨ itlbEntries c = some n → 1 ≤ n ∧ n ≤ 512) ∧
    (∀ n, datbEntries c = some n ∨ iatbEntries c = some n → n ≤ 4) ∧
    (∀ n, dcWays c = some n ∨ icWays c = some n → 1 ≤ n ∧ n ≤ 32) ∧
    (∀ n, dcSets c = some n ∨ icSets c = some n → 1 ≤ n ∧ n ≤ 1024) ∧
    (∀ n, dcBlockBytes c = some n ∨ icBlockBytes c = some n → n = 16 ∨ n = 32) ∧
    (∀ n, dcBytes c = some n ∨ icBytes c = some n → 16 ≤ n ∧ n ≤ 1048576) ∧
    (∀ n, debugPairs c = some n ∨ perfCounters c = some n → 1 ≤ n ∧ n ≤ 8)

/-- Every derived quantity of R33 to R47 exactly, with the gate of its unit (R74): the value its fields
give where CPUCFGR is present and UPR announces the unit, and none elsewhere. The elided rows are read as
the regular progressions of D24, and the gate on CPUCFGR is the model's (log 26). -/
def Obligations.DerivedQuantitiesAreExact : Prop :=
  ∀ c : Config,
    let given (unit : Bool) (q : Option Nat) (n : Nat) : Prop :=
      (present c .cpucfgr = true ∧ unit = true → q = some n) ∧
      (present c .cpucfgr = false ∨ unit = false → q = none)
    given true (shadowGprFiles c) c.cpucfgr.nsgf.toNat ∧
    given c.upr.dmp (dtlbWays c) (c.dmmucfgr.ntw.toNat + 1) ∧
    given c.upr.dmp (dtlbSets c) (2 ^ c.dmmucfgr.nts.toNat) ∧
    given c.upr.dmp (dtlbEntries c) ((c.dmmucfgr.ntw.toNat + 1) * 2 ^ c.dmmucfgr.nts.toNat) ∧
    given c.upr.dmp (datbEntries c) c.dmmucfgr.nae.toNat ∧
    given c.upr.imp (itlbWays c) (c.immucfgr.ntw.toNat + 1) ∧
    given c.upr.imp (itlbSets c) (2 ^ c.immucfgr.nts.toNat) ∧
    given c.upr.imp (itlbEntries c) ((c.immucfgr.ntw.toNat + 1) * 2 ^ c.immucfgr.nts.toNat) ∧
    given c.upr.imp (iatbEntries c) c.immucfgr.nae.toNat ∧
    given c.upr.dcp (dcWays c) (2 ^ c.dccfgr.ncw.toNat) ∧
    given c.upr.dcp (dcSets c) (2 ^ c.dccfgr.ncs.toNat) ∧
    given c.upr.dcp (dcBlockBytes c) (if c.dccfgr.bs then 32 else 16) ∧
    given c.upr.dcp (dcBytes c)
      (2 ^ c.dccfgr.ncw.toNat * 2 ^ c.dccfgr.ncs.toNat * (if c.dccfgr.bs then 32 else 16)) ∧
    given c.upr.icp (icWays c) (2 ^ c.iccfgr.ncw.toNat) ∧
    given c.upr.icp (icSets c) (2 ^ c.iccfgr.ncs.toNat) ∧
    given c.upr.icp (icBlockBytes c) (if c.iccfgr.bs then 32 else 16) ∧
    given c.upr.icp (icBytes c)
      (2 ^ c.iccfgr.ncw.toNat * 2 ^ c.iccfgr.ncs.toNat * (if c.iccfgr.bs then 32 else 16)) ∧
    given c.upr.dup (debugPairs c) (c.dcfgr.ndp.toNat + 1) ∧
    given c.upr.pcup (perfCounters c) (c.pccfgr.npc.toNat + 1)

/-- An injective `SPRNUM` (D3) names each register by one address, and SR's address names none of the
chapter's registers (R17, R127). -/
def Obligations.SprNumbersNameRegisters : Prop :=
  ∀ t : SprNum, sprNumInjective t = true →
    (∀ r, regAt t (sprAddrOf t r) = some r) ∧
    (∀ a r, regAt t a = some r → sprAddrOf t r = a) ∧
    regAt t t.sr = none

/-- Under the default `SPRNUM` every register of the chapter stands in group 0, so its address is its
index and is below 0x0800 (R81, R17). -/
def Obligations.RegistersStandInGroupZero : Prop :=
  ∀ (a : SprAddr) (r : Spr), regAt defaultSprNum a = some r →
    sprGroup a = 0#5 ∧ a = (sprIndex a).setWidth 16 ∧ a.toNat < 0x0800

/-! ### Register images (10_state.md R16, R18, R19) -/

/-- The image of every register under the default `LAYOUT`: each field at the bits R18 gives, zeros in
the reserved bits (R16). -/
def Obligations.ImagesUnderDefaultLayout : Prop :=
  ∀ s : State, s.cfg.layout = defaultLayout →
    let c := s.cfg
    let b := BitVec.ofBool
    s.image .vr = c.vr.ver ++ c.vr.cfg ++ 0#9 ++ b c.vr.uvrp ++ c.vr.rev ∧
    s.image .upr = c.upr.cup ++ 0#13 ++ b c.upr.ttp ++ b c.upr.pmp ++ b c.upr.picp ++ b c.upr.pcup ++
      b c.upr.dup ++ b c.upr.mp ++ b c.upr.imp ++ b c.upr.dmp ++ b c.upr.icp ++ b c.upr.dcp ++ b c.upr.up ∧
    s.image .cpucfgr = 0#16 ++ b c.cpucfgr.of64a32s ++ b c.cpucfgr.aecsrp ++ b c.cpucfgr.isrp ++
      b c.cpucfgr.evbarp ++ b c.cpucfgr.avrp ++ b c.cpucfgr.nd ++ b c.cpucfgr.ov64s ++
      b c.cpucfgr.of64s ++ b c.cpucfgr.of32s ++ b c.cpucfgr.ob64s ++ b c.cpucfgr.ob32s ++
      b c.cpucfgr.cgf ++ c.cpucfgr.nsgf ∧
    s.image .dmmucfgr = 0#20 ++ b c.dmmucfgr.htr ++ b c.dmmucfgr.teiri ++ b c.dmmucfgr.pri ++
      b c.dmmucfgr.cri ++ c.dmmucfgr.nae ++ c.dmmucfgr.nts ++ c.dmmucfgr.ntw ∧
    s.image .immucfgr = 0#20 ++ b c.immucfgr.htr ++ b c.immucfgr.teiri ++ b c.immucfgr.pri ++
      b c.immucfgr.cri ++ c.immucfgr.nae ++ c.immucfgr.nts ++ c.immucfgr.ntw ∧
    s.image .dccfgr = 0#17 ++ b c.dccfgr.cbwbri ++ b c.dccfgr.cbfri ++ b c.dccfgr.cblri ++
      b c.dccfgr.cbpri ++ b c.dccfgr.cbiri ++ b c.dccfgr.ccri ++ b c.dccfgr.cws ++ b c.dccfgr.bs ++
      c.dccfgr.ncs ++ c.dccfgr.ncw ∧
    s.image .iccfgr = 0#19 ++ b c.iccfgr.cblri ++ b c.iccfgr.cbpri ++ b c.iccfgr.cbiri ++
      b c.iccfgr.ccri ++ 0#1 ++ b c.iccfgr.bs ++ c.iccfgr.ncs ++ c.iccfgr.ncw ∧
    s.image .dcfgr = 0#28 ++ b c.dcfgr.wpci ++ c.dcfgr.ndp ∧
    s.image .pccfgr = 0#29 ++ c.pccfgr.npc ∧
    s.image .vr2 = c.vr2.cpuid ++ c.vr2.ver ∧
    s.image .avr = c.avr.maj ++ c.avr.min ++ c.avr.rev ++ 0#8 ∧
    s.image .evbar = s.evba ++ 0#13 ∧
    s.image .aecr = 0#25 ++ s.aecr ∧
    s.image .aesr = 0#25 ++ s.aesr

/-- Whatever `LAYOUT` an implementation has, a value written to EVBAR, AECR or AESR reads back in the
register's fields and as 0 elsewhere (R16, R19): what matters is the set of field bits, not their
places. -/
def Obligations.WrittenFieldsReadBackInAnyLayout : Prop :=
  ∀ (l : Layout) (v : Word),
    evbarImage l (evbaBits l v) = v &&& evbarImage l (-1#19) ∧
    arithImage l.arith (arithBits l.arith v) = v &&& arithImage l.arith (-1#7)

/-- Every field of VR, VR2, AVR and EVBAR stands at its place in any `LAYOUT` that fits (R19). -/
def Obligations.FieldsStandAtTheirPlaces : Prop :=
  ∀ s : State, layoutFits s.cfg.layout = true →
    let l := s.cfg.layout
    (s.image .vr).extractLsb' l.vr.rev 6 = s.cfg.vr.rev ∧
    (s.image .vr).extractLsb' l.vr.uvrp 1 = BitVec.ofBool s.cfg.vr.uvrp ∧
    (s.image .vr).extractLsb' l.vr.cfg 8 = s.cfg.vr.cfg ∧
    (s.image .vr).extractLsb' l.vr.ver 8 = s.cfg.vr.ver ∧
    (s.image .vr2).extractLsb' l.vr2.cpuid 8 = s.cfg.vr2.cpuid ∧
    (s.image .vr2).extractLsb' l.vr2.ver 24 = s.cfg.vr2.ver ∧
    (s.image .avr).extractLsb' l.avr.maj 8 = s.cfg.avr.maj ∧
    (s.image .avr).extractLsb' l.avr.min 8 = s.cfg.avr.min ∧
    (s.image .avr).extractLsb' l.avr.rev 8 = s.cfg.avr.rev ∧
    (s.image .evbar).extractLsb' l.evbarEvba 19 = s.evba

/-! ### l.mfspr (40_spr_access.md R120, R123, R124, R128) -/

/-- `l.mfspr` of a present register in supervisor mode completes: x[D] takes the register's image (for
an ISR whose value is not supplied, a free value), pc advances, and nothing else changes but the model's
free-value counter (R120, R124, R131). -/
def Obligations.MfsprReadsPresentRegister : Prop :=
  ∀ (s : State) (d a : RegNo) (k : SprAddr) (r : Spr),
    Reaches s [d, a] a k r → s.supervisor = true → present s.cfg r = true → d ≠ 0#5 →
    ∃ t, exec (.mfspr d a k) s = .next t ∧ t.readGpr d = s.image r ∧ SameGprsBut d s t ∧
      t.sr = s.sr ∧ SameBlock s t ∧ SameSaved s t ∧ SameMemory s t ∧ SameRun s t ∧ Advanced s t ∧
      t.draws = (if s.readDraws r then s.draws + 1 else s.draws)

/-- `l.mfspr` with D = 0 (R128): refused, written like any other register, or read and dropped with pc
advancing, as `R0_POLICY` says. -/
def Obligations.MfsprToRegisterZero : Prop :=
  ∀ (s : State) (a : RegNo) (k : SprAddr) (r : Spr),
    Reaches s [0, a] a k r → s.supervisor = true → present s.cfg r = true →
    (s.cfg.policies.r0 = .refuse → exec (.mfspr 0 a k) s = .refused .writeToR0) ∧
    (s.cfg.policies.r0 = .write → ∃ t, exec (.mfspr 0 a k) s = .next t ∧ t.readGpr 0 = s.image r ∧
      SameGprsBut 0 s t ∧ t.sr = s.sr ∧ SameBlock s t ∧ SameSaved s t ∧ SameMemory s t ∧ SameRun s t ∧
      Advanced s t ∧ t.draws = (if s.readDraws r then s.draws + 1 else s.draws)) ∧
    (s.cfg.policies.r0 = .discard → ∃ t, exec (.mfspr 0 a k) s = .next t ∧ SameGprs s t ∧
      t.sr = s.sr ∧ SameBlock s t ∧ SameSaved s t ∧ SameMemory s t ∧ SameRun s t ∧ Advanced s t ∧
      t.draws = (if s.readDraws r then s.draws + 1 else s.draws))

/-- An access to an absent register (R123): refused, or with a read of 0 or of a free value and a write
without effect, as `ABSENT_SPR_POLICY` says; UPR is always present and reads 0 when its UP field is 0. -/
def Obligations.AbsentRegisterAccess : Prop :=
  (∀ (s : State) (d a : RegNo) (k : SprAddr) (r : Spr),
    Reaches s [d, a] a k r → s.supervisor = true → present s.cfg r = false →
    (s.cfg.policies.absentSpr = .refuse → exec (.mfspr d a k) s = .refused .sprAbsent) ∧
    (s.cfg.policies.absentSpr = .readZero → d ≠ 0#5 → ∃ t, exec (.mfspr d a k) s = .next t ∧
      t.readGpr d = 0 ∧ SameGprsBut d s t ∧ t.sr = s.sr ∧ SameBlock s t ∧ SameSaved s t ∧
      SameMemory s t ∧ SameRun s t ∧ Advanced s t) ∧
    (s.cfg.policies.absentSpr = .draw → d ≠ 0#5 → ∃ t, exec (.mfspr d a k) s = .next t ∧
      t.readGpr d = Config.draw s.draws ∧ t.draws = s.draws + 1 ∧ SameGprsBut d s t ∧ t.sr = s.sr ∧
      SameBlock s t ∧ SameSaved s t ∧ SameMemory s t ∧ SameRun s t ∧ Advanced s t)) ∧
  (∀ (s : State) (a b : RegNo) (k : SprAddr) (r : Spr),
    Reaches s [a, b] a k r → s.supervisor = true → present s.cfg r = false →
    (s.cfg.policies.absentSpr = .refuse → exec (.mtspr a b k) s = .refused .sprAbsent) ∧
    (s.cfg.policies.absentSpr ≠ .refuse → ∃ t, exec (.mtspr a b k) s = .next t ∧ SameGprs s t ∧
      t.sr = s.sr ∧ SameBlock s t ∧ SameSaved s t ∧ SameMemory s t ∧ SameRun s t ∧ Advanced s t)) ∧
  (∀ s : State, configDefect s.cfg = none →
    present s.cfg .upr = true ∧ (s.cfg.upr.up = false → s.image .upr = 0#32))

/-- `l.mfspr` of an absent register with D = 0, where `ABSENT_SPR_POLICY` gives a value: that value meets
`R0_POLICY` as a read one does. R120 does not say which of the two policies speaks; the model deduces it
from the order of R127 (log 24). -/
def Obligations.AbsentReadToRegisterZero : Prop :=
  ∀ (s : State) (a : RegNo) (k : SprAddr) (r : Spr),
    Reaches s [0, a] a k r → s.supervisor = true → present s.cfg r = false →
    s.cfg.policies.absentSpr ≠ .refuse →
    (s.cfg.policies.r0 = .refuse → exec (.mfspr 0 a k) s = .refused .writeToR0) ∧
    (s.cfg.policies.r0 ≠ .refuse → ∃ t, exec (.mfspr 0 a k) s = .next t ∧ SameGprsBut 0 s t ∧
      t.sr = s.sr ∧ SameBlock s t ∧ SameSaved s t ∧ SameMemory s t ∧ SameRun s t ∧ Advanced s t ∧
      t.readGpr 0 =
        if s.cfg.policies.r0 = .discard then s.readGpr 0
        else if s.cfg.policies.absentSpr = .readZero then 0 else Config.draw s.draws)

/-- A present ISR (R66): a read returns the supplied value, else a fresh free value; a write is refused. -/
def Obligations.ImplementationSpecificRegisters : Prop :=
  (∀ (s : State) (d a : RegNo) (k : SprAddr) (i : Fin 8),
    Reaches s [d, a] a k (.isr i) → s.supervisor = true → present s.cfg (.isr i) = true → d ≠ 0#5 →
    (∀ v, s.cfg.isrValue[i] = some v →
      ∃ t, exec (.mfspr d a k) s = .next t ∧ t.readGpr d = v ∧ t.draws = s.draws) ∧
    (s.cfg.isrValue[i] = none →
      ∃ t, exec (.mfspr d a k) s = .next t ∧ t.readGpr d = Config.draw s.draws ∧
        t.draws = s.draws + 1)) ∧
  (∀ (s : State) (a b : RegNo) (k : SprAddr) (i : Fin 8),
    Reaches s [a, b] a k (.isr i) → s.supervisor = true → present s.cfg (.isr i) = true →
    exec (.mtspr a b k) s = .refused .isrWrite)

/-! ### l.mtspr (40_spr_access.md R121, R125) -/

/-- `l.mtspr` to EVBAR completes (R56): EVBA takes v[31:13], v[12:0] are dropped, a read then returns
v & 0xFFFFE000, and nothing else changes but pc; under the default `LAYOUT`. -/
def Obligations.MtsprWritesEvbar : Prop :=
  ∀ (s : State) (a b : RegNo) (k : SprAddr),
    s.cfg.layout = defaultLayout →
    Reaches s [a, b] a k .evbar → s.supervisor = true → present s.cfg .evbar = true →
    ∃ t, exec (.mtspr a b k) s = .next t ∧ t.evba = (s.readGpr b).extractLsb' 13 19 ∧
      t.image .evbar = t.evba ++ 0#13 ∧ t.image .evbar = s.readGpr b &&& 0xFFFFE000#32 ∧
      t.aecr = s.aecr ∧ t.aesr = s.aesr ∧ SameGprs s t ∧ t.sr = s.sr ∧ SameSaved s t ∧
      SameMemory s t ∧ SameRun s t ∧ Advanced s t ∧ t.draws = s.draws

/-- `l.mtspr` to AECR completes (R60): AECR takes v[6:0], its image is those bits below 25 zeros, and
nothing else changes but pc; under the default `LAYOUT`. -/
def Obligations.MtsprWritesAecr : Prop :=
  ∀ (s : State) (a b : RegNo) (k : SprAddr),
    s.cfg.layout = defaultLayout →
    Reaches s [a, b] a k .aecr → s.supervisor = true → present s.cfg .aecr = true →
    ∃ t, exec (.mtspr a b k) s = .next t ∧ t.aecr = (s.readGpr b).extractLsb' 0 7 ∧
      t.image .aecr = 0#25 ++ t.aecr ∧
      t.evba = s.evba ∧ t.aesr = s.aesr ∧ SameGprs s t ∧ t.sr = s.sr ∧ SameSaved s t ∧
      SameMemory s t ∧ SameRun s t ∧ Advanced s t ∧ t.draws = s.draws

/-- `l.mtspr` to AESR completes and raises nothing (R64): a bit written as 0 is cleared, a bit written as
1 is set, control goes on to the next instruction, and nothing else changes; under the default
`LAYOUT`. -/
def Obligations.MtsprWritesAesr : Prop :=
  ∀ (s : State) (a b : RegNo) (k : SprAddr),
    s.cfg.layout = defaultLayout →
    Reaches s [a, b] a k .aesr → s.supervisor = true → present s.cfg .aesr = true →
    ∃ t, exec (.mtspr a b k) s = .next t ∧ t.aesr = (s.readGpr b).extractLsb' 0 7 ∧
      t.image .aesr = 0#25 ++ t.aesr ∧
      t.evba = s.evba ∧ t.aecr = s.aecr ∧ SameGprs s t ∧ t.sr = s.sr ∧ SameSaved s t ∧
      SameMemory s t ∧ SameRun s t ∧ Advanced s t ∧ t.draws = s.draws

/-- `l.mtspr` to a read-only register (the first row of R125): nothing changes but pc, or it is refused,
as `RO_WRITE_POLICY` says. -/
def Obligations.MtsprToReadOnlyRegister : Prop :=
  ∀ (s : State) (a b : RegNo) (k : SprAddr) (r : Spr),
    Reaches s [a, b] a k r → s.supervisor = true → present s.cfg r = true → readOnly r = true →
    (s.cfg.policies.roWrite = .ignore → ∃ t, exec (.mtspr a b k) s = .next t ∧ SameGprs s t ∧
      t.sr = s.sr ∧ SameBlock s t ∧ SameSaved s t ∧ SameMemory s t ∧ SameRun s t ∧ Advanced s t ∧
      t.draws = s.draws) ∧
    (s.cfg.policies.roWrite = .refuse → exec (.mtspr a b k) s = .refused .writeToReadOnlySpr)

/-- Read after write (R130): what `l.mfspr` returns right after an `l.mtspr` of v to the same register,
under the default `LAYOUT`. -/
def Obligations.ReadAfterWrite : Prop :=
  ∀ (s t : State) (a b a' d : RegNo) (k k' : SprAddr) (r : Spr),
    s.cfg.layout = defaultLayout → s.supervisor = true → present s.cfg r = true → d ≠ 0#5 →
    Reaches s [a, b] a k r → exec (.mtspr a b k) s = .next t → Reaches t [d, a'] a' k' r →
    ∃ u, exec (.mfspr d a' k') t = .next u ∧
      (r = .evbar → u.readGpr d = s.readGpr b &&& 0xFFFFE000#32) ∧
      (r = .aecr → u.readGpr d = s.readGpr b &&& 0x0000007F#32) ∧
      (r = .aesr → u.readGpr d = s.readGpr b &&& 0x0000007F#32) ∧
      (readOnly r = true → u.readGpr d = s.image r)

/-! ### The checks (40_spr_access.md R122, R126, R127) -/

/-- In supervisor mode, whatever form an access takes, `l.mfspr` changes nothing but x[D] and pc, and
`l.mtspr` nothing but pc and at most one of EVBA, AECR, AESR (R131); and neither reads memory: in either
mode, with any other memory an instruction does the same and leaves that memory (R131). For an access in
user mode that takes the illegal-instruction exception with `TrapEntry` left open, that last clause is the
model's choice (log 15), and the two runs it compares take the same free values (log 9). -/
def Obligations.SprAccessFrame : Prop :=
  (∀ (s t : State) (d a : RegNo) (k : SprAddr), s.supervisor = true →
    exec (.mfspr d a k) s = .next t →
    SameGprsBut d s t ∧ SameBlock s t ∧ t.sr = s.sr ∧ SameSaved s t ∧ SameMemory s t ∧ SameRun s t ∧
      Advanced s t) ∧
  (∀ (s t : State) (a b : RegNo) (k : SprAddr), s.supervisor = true →
    exec (.mtspr a b k) s = .next t →
    SameGprs s t ∧ t.sr = s.sr ∧ SameSaved s t ∧ SameMemory s t ∧ SameRun s t ∧ Advanced s t ∧
      ((t.aecr = s.aecr ∧ t.aesr = s.aesr) ∨ (t.evba = s.evba ∧ t.aesr = s.aesr) ∨
        (t.evba = s.evba ∧ t.aecr = s.aecr))) ∧
  (∀ (i : Instr) (s : State) (m : Memory),
    match exec i s, exec i (s.withMem m) with
    | .next t, .next t' => t' = t.withMem m
    | .fault f, .fault f' => f' = f
    | .refused q, .refused q' => q' = q
    | _, _ => False)

/-- Outside supervisor mode an access to a register of the chapter neither returns its value nor changes
it: a fault, a refusal, or the illegal-instruction exception, as `USER_SPR_POLICY` says (R122). That memory
and the agenda stay over an entry left open is the model's choice (log 15), and the pc that the family's
entry saves for this exception is presumed (log 16). -/
def Obligations.UserModeOutcome : Prop :=
  ∀ (s : State) (i : Instr) (a : RegNo) (k : SprAddr) (r : Spr),
    ((∃ d, i = .mfspr d a k) ∨ (∃ b, i = .mtspr a b k)) →
    Reaches s i.registers a k r → s.supervisor = false →
    (s.cfg.policies.userSpr = .fault → exec i s = .fault .sprAccessInUserMode) ∧
    (s.cfg.policies.userSpr = .refuse → exec i s = .refused .sprAccessInUserMode) ∧
    (s.cfg.policies.userSpr = .illegalInstruction →
      ∃ t, exec i s = .next t ∧ t = s.raise .illegalInstruction none ∧
        t.pc = s.vectorAddress .illegalInstruction ∧ t.supervisor = true ∧
        SameBlock s t ∧ SameMemory s t ∧ SameRun s t)

/-- Outside supervisor mode nothing an instruction leaves in the general registers, SR or the saved
registers depends on EVBA, AECR or AESR, and whether and how it stops does not either (R122). The pc does
where an exception is taken: it is at a vector, and EVBA moves the vectors. The two runs compared take the
same free values (log 9). -/
def Obligations.UserModeLearnsNothing : Prop :=
  ∀ (i : Instr) (s : State) (e : BitVec 19) (c m : BitVec 7), s.supervisor = false →
    match exec i s, exec i (((s.withEvba e).withAecr c).withAesr m) with
    | .next t, .next t' =>
      t'.gpr = t.gpr ∧ t'.sr = t.sr ∧ SameSaved t t' ∧ t'.mem = t.mem ∧ t'.draws = t.draws ∧
        t'.delaySlot = t.delaySlot ∧ SameRun t t' ∧ t'.evba = e ∧ t'.aecr = c ∧ t'.aesr = m
    | .fault f, .fault f' => f' = f
    | .refused q, .refused q' => q' = q
    | _, _ => False

/-- The checks that come before privilege and the name each failing one gives, in their order: register
numbers (R104), the delay slot where the policy refuses an access in it (R190, I41), address bits above 15
(R126), classification of the address. Each comes out the same in either mode. The order is R127's; that
the delay-slot check stands second, after the register numbers, is the model's deduction (log 23), and
that the policy decides it is log 14. -/
def Obligations.FailingCheckNamesTheStop : Prop :=
  ∀ (s : State) (i : Instr) (a : RegNo) (k : SprAddr),
    ((∃ d, i = .mfspr d a k) ∨ (∃ b, i = .mtspr a b k)) → configDefect s.cfg = none →
    (i.wellFormed s.cfg = false → exec i s = .refused .noSuchGpr) ∧
    (i.wellFormed s.cfg = true → s.delaySlot ≠ none → s.cfg.policies.delaySlot = .refuse →
      exec i s = .refused .inDelaySlot) ∧
    (i.wellFormed s.cfg = true → (s.delaySlot = none ∨ s.cfg.policies.delaySlot = .execute) →
      ((s.sprEa a k).extractLsb' 16 16 ≠ 0#16 → s.cfg.policies.highAddr = .refuse →
        exec i s = .refused .sprAddressOutOfRange) ∧
      (((s.sprEa a k).extractLsb' 16 16 = 0#16 ∨ s.cfg.policies.highAddr = .truncate) →
        regAt s.cfg.sprNum ((s.sprEa a k).extractLsb' 0 16) = none →
        exec i s = .refused .sprOutsideSpec))

/-- SR at its own SPR address is interface only: an access to it is refused as outside the spec, in
either mode (R127). -/
def Obligations.SrIsNotAccessible : Prop :=
  ∀ (s : State) (i : Instr) (a : RegNo) (k : SprAddr),
    ((∃ d, i = .mfspr d a k) ∨ (∃ b, i = .mtspr a b k)) →
    configDefect s.cfg = none → i.wellFormed s.cfg = true → s.delaySlot = none →
    s.sprEa a k = s.cfg.sprNum.sr.setWidth 32 →
    exec i s = .refused .sprOutsideSpec

/-- `HIGH_ADDR_POLICY` = truncate (R126): with bits 31..16 of the address not zero the access goes on
with the low 16, and a present register is read as it is. -/
def Obligations.TruncatedAddressReachesRegister : Prop :=
  ∀ (s : State) (d a : RegNo) (k : SprAddr) (r : Spr),
    configDefect s.cfg = none → hasGpr s.cfg d = true → hasGpr s.cfg a = true → s.delaySlot = none →
    s.cfg.policies.highAddr = .truncate → (s.sprEa a k).extractLsb' 16 16 ≠ 0#16 →
    (s.sprEa a k).extractLsb' 0 16 = sprAddrOf s.cfg.sprNum r →
    s.supervisor = true → present s.cfg r = true → d ≠ 0#5 →
    ∃ t, exec (.mfspr d a k) s = .next t ∧ t.readGpr d = s.image r

/-! ### Constants, memory and the mutable registers over every step -/

/-- No step of any kind changes a constant: the implementation is the same after it, and each read-only
register has the same image (R11, R180). -/
def Obligations.ConstantsNeverChange : Prop :=
  ∀ (s t : State), step s = .next t →
    t.cfg = s.cfg ∧ ∀ r, readOnly r = true → t.image r = s.image r

/-- No step of any kind writes memory: the two instructions in supervisor mode do not (R131); that the
other steps do not is the model's choice: over an exception entry, of an access in user mode too, log 15;
over an event handed in, logs 12 and 13; over reset, log 18. -/
def Obligations.NoStepWritesMemory : Prop := ∀ (s t : State), step s = .next t → SameMemory s t

/-- The only writers of EVBA and AECR are `l.mtspr` to them and reset; those of AESR, besides, the
arithmetic exception; the implementation has none (R196). -/
def Obligations.OnlyWritersOfTheBlock : Prop :=
  ∀ (s t : State), step s = .next t →
    (t.evba ≠ s.evba → s.nextInput = .reset ∨ s.NextWrites .evbar) ∧
    (t.aecr ≠ s.aecr → s.nextInput = .reset ∨ s.NextWrites .aecr) ∧
    (t.aesr ≠ s.aesr → s.nextInput = .reset ∨ s.NextWrites .aesr ∨ s.NextRaises) ∧
    t.cfg = s.cfg

/-- Hardware only sets bits of AESR, software clears them: over any step but reset and an `l.mtspr` to
AESR, a bit that was 1 stays 1 (R144). -/
def Obligations.HardwareOnlySetsAesr : Prop :=
  ∀ (s t : State), step s = .next t → s.nextInput ≠ .reset → ¬ s.NextWrites .aesr →
    ∀ j, s.aesr.getLsbD j = true → t.aesr.getLsbD j = true

/-- What AESR holds decides nothing (R64, R146): two states that differ in AESR alone step alike, to the
steps still to come, except that an `l.mfspr` may return it. No bit left set in it raises an exception. The
two runs compared take the same free values (log 9). -/
def Obligations.AesrDecidesNothing : Prop :=
  ∀ (s : State) (m : BitVec 7),
    match step s, step (s.withAesr m) with
    | .next t, .next t' =>
      t'.pc = t.pc ∧ t'.delaySlot = t.delaySlot ∧ t'.sr = t.sr ∧ t'.evba = t.evba ∧ t'.aecr = t.aecr ∧
        SameSaved t t' ∧ t'.mem = t.mem ∧ SameRun t t' ∧ t'.draws = t.draws ∧
        (t'.gpr = t.gpr ∨ ∃ d a k, s.nextInstr = some (.mfspr d a k) ∧ s.sprNamed a k = some .aesr)
    | .fault f, .fault f' => f' = f
    | .refused q, .refused q' => q' = q
    | _, _ => False

/-- How a step changes the mode: into supervisor mode only through an exception's vector or reset, out of
it only by a return from exception or reset. R170 names a third way out, software that writes SR with
SM = 0: no step of the model takes it, since an access to SR is refused as outside the spec (R127,
log 35). Return and reset as steps are logs 12 and 17. -/
def Obligations.ModeChangesOnlyByExceptionReturnOrReset : Prop :=
  ∀ (s t : State), step s = .next t →
    (s.supervisor = false → t.supervisor = true →
      s.nextInput = .reset ∨ ∃ e, t.pc = s.vectorAddress e) ∧
    (s.supervisor = true → t.supervisor = false →
      s.nextInput = .reset ∨ s.nextInput = .exceptionReturn)

/-- Every step keeps the invariant: the implementation stays well formed, memory stays in canonical form,
SR.FO reads 1, and an implementation without delay slots never stands in one (R4, R14, R190). -/
def Obligations.StepKeepsInv : Prop := ∀ (s t : State), s.Inv → step s = .next t → t.Inv

/-- The state after reset meets the invariant (for the implementation `State.reset` takes, log 1). -/
def Obligations.ResetMeetsInv : Prop := State.reset.Inv

/-! ### The arithmetic exception (60_exceptions.md R141 to R147, R162) -/

/-- What the conditions of an addition or a subtraction say of its operands (R141, R142): CYADDE, a carry
out of the top bit or a borrow; OVADDE, that the exact signed result does not fit; no other condition. That
the carry-in counts in the exact signed sum is the model's reading of R142 (log 39). -/
def Obligations.AddSubConditions : Prop :=
  ∀ (w : Nat) (a b : BitVec w) (cin : Bool),
    ((conditions (addEvent a b cin)).getLsbD 0 = true ↔ 2 ^ w ≤ a.toNat + b.toNat + cin.toNat) ∧
    ((conditions (addEvent a b cin)).getLsbD 1 = true ↔
      (a.toInt + b.toInt + cin.toNat < -(2 ^ (w - 1) : Int) ∨
        (2 ^ (w - 1) : Int) ≤ a.toInt + b.toInt + cin.toNat)) ∧
    ((conditions (addEvent a b false)).getLsbD 1 = BitVec.saddOverflow a b) ∧
    ((conditions (subEvent a b)).getLsbD 0 = true ↔ a.toNat < b.toNat) ∧
    ((conditions (subEvent a b)).getLsbD 1 = BitVec.ssubOverflow a b) ∧
    (∀ j, 2 ≤ j → (conditions (addEvent a b cin)).getLsbD j = false ∧
      (conditions (subEvent a b)).getLsbD j = false)

/-- All seven conditions of a multiplication, a division and the addition stage of a MAC instruction, from
their operands (R141, R142): those of the instruction's own class, each where the instruction computes its
flag and the exact result does not fit, and no other. Which flags an instruction computes is for the
supplier of the event to say. -/
def Obligations.MulDivMacConditions : Prop :=
  ∀ (w : Nat) (a b : BitVec w) (cy ov : Bool) (pu ps : Int),
    let bit := BitVec.ofBool
    (conditions (mulEvent a b cy ov) =
      0#3 ++ bit (ov && BitVec.smulOverflow a b) ++ bit (cy && decide (2 ^ w ≤ a.toNat * b.toNat)) ++ 0#2) ∧
    (conditions (divSignedEvent b) = if b = 0 then 0x10#7 else 0#7) ∧
    (conditions (divUnsignedEvent b) = if b = 0 then 0x10#7 else 0#7) ∧
    (conditions (macEvent a pu ps cy ov) =
      bit (ov && decide (a.toInt + ps < -(2 ^ (w - 1) : Int) ∨ (2 ^ (w - 1) : Int) ≤ a.toInt + ps)) ++
      bit (cy && decide (a.toNat + pu < 0 ∨ (2 ^ w : Int) ≤ a.toNat + pu)) ++ 0#5)

/-- With SR.OVE = 0, or with no enabled condition met, an arithmetic instruction raises nothing (R143):
AESR, AECR and EVBA keep their values, the flags are written, control goes on, and the destination takes
the result: a destination of register 0 as `R0_POLICY` says. Destination, flags and advance are the
step's own interface (log 13), and an event of class mac needs no MAC unit (log 38). -/
def Obligations.NoEnabledConditionRaisesNothing : Prop :=
  ∀ (s : State) (x : ArithStep) (rest : List Input),
    configDefect s.cfg = none → s.agenda = .arith x :: rest → present s.cfg .aecr = true →
    s.DestinationWritable x →
    (s.srFlag srOVE = false ∨ conditions x.event &&& s.aecr = 0#7) →
    ∃ t, step s = .next t ∧ ArithCompleted s x rest t

/-- With SR.OVE = 1 and an enabled condition met, the instruction raises one exception (R143, R144): AESR
gains the bit of every condition that occurred and was enabled and keeps the bits it had, and control goes
to the range vector in supervisor mode. The SR that the family's entry saves holds the new flags (R145),
and the destination is as `RESULT_ON_EXC` says, one of register 0 as `R0_POLICY` says besides (log 13).
That memory and the agenda stay with `TrapEntry` left open too, and that no delay slot is left, is the
model's choice (log 15), and so is that an event of class mac raises without a MAC unit too (log 38). -/
def Obligations.EnabledConditionRaisesAndIsRecorded : Prop :=
  ∀ (s : State) (x : ArithStep) (rest : List Input),
    configDefect s.cfg = none → s.agenda = .arith x :: rest → present s.cfg .aecr = true →
    s.DestinationWritable x →
    s.srFlag srOVE = true → conditions x.event &&& s.aecr ≠ 0#7 →
    ∃ t, step s = .next t ∧ t.aesr = s.aesr ||| (conditions x.event &&& s.aecr) ∧ ArithRaised s x rest t

/-- Without AECR (R147): with SR.OVE = 0 nothing is raised; with SR.OVE = 1 the mask `NO_AECR_MASK` takes
AECR's place and AESR is not written, or the event is refused where no mask is supplied. The rest of the
step is as with AECR: flags, destination, advance and the saved SR (R143, R145; log 13). That memory and the
agenda stay over an entry left open, and that no delay slot is left, is the model's choice (log 15), and so
is that an event of class mac needs no MAC unit (log 38). -/
def Obligations.ArithmeticWithoutAecr : Prop :=
  ∀ (s : State) (x : ArithStep) (rest : List Input),
    configDefect s.cfg = none → s.agenda = .arith x :: rest → present s.cfg .aecr = false →
    s.DestinationWritable x →
    (s.srFlag srOVE = false → ∃ t, step s = .next t ∧ ArithCompleted s x rest t) ∧
    (s.srFlag srOVE = true → s.cfg.policies.noAecrMask = none → step s = .refused .oveWithoutAecr) ∧
    (s.srFlag srOVE = true → ∀ m, s.cfg.policies.noAecrMask = some m →
      (conditions x.event &&& m = 0#7 → ∃ t, step s = .next t ∧ ArithCompleted s x rest t) ∧
      (conditions x.event &&& m ≠ 0#7 → ∃ t, step s = .next t ∧ t.aesr = s.aesr ∧ ArithRaised s x rest t))

/-- The destinations that the statements on arithmetic events leave (log 13). A register that does not
exist is refused as `no_such_gpr`, whatever the event. Register 0 under `R0_POLICY` = refuse is refused as
`write_to_r0` wherever a value would be written: where nothing is raised, and where the raising
instruction writes its destination; under `RESULT_ON_EXC` = unwritten it raises and is recorded like any
other, and without a mask in AECR's place it is refused as `ove_without_aecr` (R147). That memory and the
agenda stay over an entry left open, and that no delay slot is left, is the model's choice (log 15), and so
is that an event of class mac needs no MAC unit (log 38). -/
def Obligations.ArithmeticDestinationRefusals : Prop :=
  ∀ (s : State) (x : ArithStep) (rest : List Input) (d : RegNo),
    configDefect s.cfg = none → s.agenda = .arith x :: rest → x.dest = some d →
    (hasGpr s.cfg d = false → step s = .refused .noSuchGpr) ∧
    (hasGpr s.cfg d = true → d = 0#5 → s.cfg.policies.r0 = .refuse →
      (s.srFlag srOVE = false ∨ s.arithHit x.event = some 0#7 → step s = .refused .writeToR0) ∧
      (s.srFlag srOVE = true → s.arithHit x.event = none → step s = .refused .oveWithoutAecr) ∧
      (s.srFlag srOVE = true → ∀ hit, s.arithHit x.event = some hit → hit ≠ 0#7 →
        (s.cfg.policies.resultOnExc ≠ .unwritten → step s = .refused .writeToR0) ∧
        (s.cfg.policies.resultOnExc = .unwritten → ∃ t, step s = .next t ∧
          t.aesr = (if present s.cfg .aesr then s.aesr ||| hit else s.aesr) ∧ ArithRaised s x rest t)))

/-- AESR accumulates (R162): after two arithmetic exceptions with no clearing between, AESR holds the OR
of both causes. The second event is the agenda's next, which an entry leaves (logs 12, 15).
An event of class mac raises without a MAC unit too (log 38). -/
def Obligations.AesrAccumulatesCauses : Prop :=
  ∀ (s t u : State) (x y : ArithStep) (rest : List Input),
    present s.cfg .aecr = true → s.agenda = .arith x :: .arith y :: rest →
    s.NextRaises → step s = .next t → t.NextRaises → step t = .next u →
    u.aesr = s.aesr ||| (conditions x.event &&& s.aecr) ||| (conditions y.event &&& s.aecr)

/-! ### Vectors, exception entry and return (60_exceptions.md R150, R160, R161) -/

/-- The vector address (R150): EVBA above thirteen zeros in any `LAYOUT`, 0 where EVBAR is absent, ORed with
the offset SR[EPH] provides, plus the exception's offset; taking the exception goes to that address, as EVBA and SR[EPH] stand
in the state it is taken in; and with the default tables the base has its low 13 bits zero and the sum is
an OR. -/
def Obligations.VectorAddressIsBasePlusOffset : Prop :=
  ∀ (s : State) (e : ExceptionKind),
    let evb := if present s.cfg .evbar then s.evba ++ 0#13 else 0#32
    let eph := if s.srFlag srEPH then s.cfg.ephOffset else 0#32
    s.vectorAddress e = (evb ||| eph) + offsetOf s.cfg.vectorOffset e ∧
    (∀ ea, (s.raise e ea).pc = (evb ||| eph) + offsetOf s.cfg.vectorOffset e) ∧
    (s.cfg.ephOffset = defaultEphOffset → s.cfg.vectorOffset = defaultVectorOffsets →
      (evb ||| eph).extractLsb' 0 13 = 0#13 ∧
      s.vectorAddress e = (evb ||| eph) ||| offsetOf defaultVectorOffsets e)

/-- A write is visible to the next step (R88): after `l.mtspr` of v to EVBAR every vector is based on
v & 0xFFFFE000, after one to AECR an arithmetic event is tested against v[6:0]; under the default
`LAYOUT`. -/
def Obligations.WriteIsVisibleToNextStep : Prop :=
  ∀ (s t : State) (a b : RegNo) (k : SprAddr) (r : Spr),
    s.cfg.layout = defaultLayout → s.supervisor = true → present s.cfg r = true →
    Reaches s [a, b] a k r → exec (.mtspr a b k) s = .next t →
    (r = .evbar → ∀ e, t.vectorAddress e =
      ((s.readGpr b &&& 0xFFFFE000#32) ||| (if s.srFlag srEPH then s.cfg.ephOffset else 0#32)) +
        offsetOf s.cfg.vectorOffset e) ∧
    (r = .aecr → ∀ e, t.arithHit e = some (conditions e &&& (s.readGpr b).extractLsb' 0 7))

/-- The family's exception entry (R160, logs 15, 16, 34): EPCR0 takes the return address (the jump before
it in a delay slot), EEAR0 the effective address where the exception has one, ESR0 the SR as it stood;
supervisor mode, TEE, IEE, DME, IME cleared, OVE cleared where the implementation clears it, DSX set in
a delay slot; every other bit of SR, the general registers, EVBA, AECR, AESR and memory keep their
values. -/
def Obligations.FamilyEntrySavesAndSwitches : Prop :=
  ∀ (s : State) (e : ExceptionKind) (ea : Option Word) (co : Bool),
    s.cfg.policies.trapEntry = .family co → s.srFlag srFO = true →
    let t := s.raise e ea
    t.pc = s.vectorAddress e ∧ t.delaySlot = none ∧
    t.epcr0 = (if s.delaySlot = none then s.pc else s.pc - 4) ∧
    t.eear0 = ea.getD s.eear0 ∧ t.esr0 = s.sr ∧
    SameGprs s t ∧ SameBlock s t ∧ SameMemory s t ∧ SameRun s t ∧
    t.srFlag srSM = true ∧ t.srFlag srTEE = false ∧ t.srFlag srIEE = false ∧ t.srFlag srDME = false ∧
    t.srFlag srIME = false ∧ (co = true → t.srFlag srOVE = false) ∧
    (co = false → t.srFlag srOVE = s.srFlag srOVE) ∧
    (s.delaySlot ≠ none → t.srFlag srDSX = true) ∧
    (s.delaySlot = none → t.srFlag srDSX = s.srFlag srDSX) ∧
    ∀ j, j < 32 → j ∉ [srSM, srTEE, srIEE, srDME, srIME, srOVE, srDSX] → t.srFlag j = s.srFlag j

/-- Returning undoes entering (R160, R161; logs 15, 17): a return right after the family's entry restores
SR and the general registers, goes to the saved address, and leaves EVBA, AECR and AESR. The saved address
is R160's for the range exception and presumed for every other (log 16). -/
def Obligations.ReturnUndoesEntry : Prop :=
  ∀ (s : State) (e : ExceptionKind) (ea : Option Word) (co : Bool),
    s.cfg.policies.trapEntry = .family co → s.srFlag srFO = true →
    ∃ t, returnStep (s.raise e ea) = .next t ∧ t.sr = s.sr ∧
      t.pc = (if s.delaySlot = none then s.pc else s.pc - 4) ∧ t.delaySlot = none ∧
      SameGprs s t ∧ SameBlock s t ∧ SameMemory s t ∧ SameRun s t

/-- A return from exception raises nothing and changes neither AESR, AECR nor EVBA, whatever SR[CY] and
SR[OV] it restores and whatever AESR holds (R161, R146); in user mode, and in a delay slot in either mode,
it is refused (logs 14, 17). -/
def Obligations.ExceptionReturnStep : Prop :=
  ∀ (s : State) (rest : List Input),
    configDefect s.cfg = none → s.agenda = .exceptionReturn :: rest →
    (s.delaySlot = none → s.supervisor = true → ∃ t, step s = .next t ∧ t.pc = s.epcr0 ∧
      t.delaySlot = none ∧ (∀ j, j < 32 → j ≠ srFO → t.srFlag j = s.esr0.getLsbD j) ∧
      SameBlock s t ∧ SameGprs s t ∧ SameSaved s t ∧ SameMemory s t ∧ t.cfg = s.cfg ∧
      t.agenda = rest) ∧
    (s.delaySlot = none → s.supervisor = false → step s = .refused .returnInUserMode) ∧
    (s.delaySlot ≠ none → step s = .refused .transferInDelaySlot)

/-! ### The delay slot and reset (70_reset_and_hazards.md R180 to R190) -/

/-- A taken jump (R190): with ND = 0 the next word runs first and an SPR access in it then reaches the
jump's target; with ND = 1 control reaches the target at once. Nothing else changes. A jump in a delay
slot is refused, R190 calling it undefined (log 14). -/
def Obligations.JumpSlotTarget : Prop :=
  ∀ (s : State) (target : Word) (rest : List Input),
    configDefect s.cfg = none → s.agenda = .takenJump target :: rest →
    (s.delaySlot = none →
      ∃ t, step s = .next t ∧ SameGprs s t ∧ t.sr = s.sr ∧ SameBlock s t ∧ SameSaved s t ∧
        SameMemory s t ∧ t.cfg = s.cfg ∧ t.agenda = rest ∧
        (s.cfg.cpucfgr.nd = true → t.pc = target ∧ t.delaySlot = none) ∧
        (s.cfg.cpucfgr.nd = false → t.pc = s.pc + 4 ∧
          ∀ (i : Instr) (u : State), t.supervisor = true → exec i t = .next u →
            u.pc = target ∧ u.delaySlot = none)) ∧
    (s.delaySlot ≠ none → step s = .refused .transferInDelaySlot)

/-- Reset of a running machine, register by register (R180, R181, R182): the constants stay, EVBA takes
`EVBA_RESET`, AECR and AESR take their reset values where the implementation gives them and free values
where it does not, and control goes to the reset vector of the new EVBA and SR. SR and pc are the family's
(log 7). That the general registers, EPCR0, EEAR0 and ESR0 take free values, that memory and the rest of
the agenda stay, and that no delay slot is left are the model's choice (log 18). -/
def Obligations.ResetStep : Prop :=
  ∀ (s : State) (rest : List Input),
    configDefect s.cfg = none → s.agenda = .reset :: rest →
    ∃ t, step s = .next t ∧ t.cfg = s.cfg ∧ t.evba = s.cfg.evbaReset ∧
      t.aecr = s.cfg.aecrReset.getD ((Config.draw s.draws).extractLsb' 0 7) ∧
      t.aesr = s.cfg.aesrReset.getD ((Config.draw (s.draws + 1)).extractLsb' 0 7) ∧
      t.epcr0 = Config.draw (s.draws + 2) ∧ t.eear0 = Config.draw (s.draws + 3) ∧
      t.esr0 = Config.draw (s.draws + 4) ∧
      (∀ r, t.readGpr r = Config.draw (s.draws + 5 + r.toNat)) ∧ t.draws = s.draws + 37 ∧
      t.delaySlot = none ∧ t.pc = t.vectorAddress .reset ∧ t.srFlag srFO = true ∧
      (∀ j, j < 32 → j ≠ srFO → t.srFlag j = s.cfg.srReset.getLsbD j) ∧
      SameMemory s t ∧ t.agenda = rest

/-- At reset EVBA takes `EVBA_RESET`, the implementation's own value, and where EVBAR is absent the vector
base after reset is 0, but for the offset SR[EPH] provides (R181). -/
def Obligations.ResetLoadsEvbaReset : Prop :=
  ∀ (s : State) (rest : List Input),
    configDefect s.cfg = none → s.agenda = .reset :: rest →
    ∃ t, step s = .next t ∧ t.evba = s.cfg.evbaReset ∧
      (present s.cfg .evbar = false → t.srFlag srEPH = false →
        ∀ e, t.vectorAddress e = offsetOf s.cfg.vectorOffset e)

/-- The state after reset of any implementation: EVBA is `EVBA_RESET` (R181) and the constants are the
implementation's (R180). Supervisor mode with SR = 0x00008001 and pc = 0x00000100 in `State.reset` are
the family's values that the model presumes (log 7), empty memory its choice (log 10). -/
def Obligations.ResetState : Prop :=
  (∀ c : Config, (State.resetFor c).evba = c.evbaReset ∧ (State.resetFor c).cfg = c) ∧
  State.reset.sr = 0x00008001#32 ∧ State.reset.pc = 0x00000100#32 ∧ State.reset.supervisor = true ∧
  State.reset.srFlag srOVE = false ∧ ∀ a, Memory.read State.reset.mem a = none
end

