-- ==== Sys2Proof/Laws/Config.lean ====
section
/-! SUPPORT. What a well-formed implementation is, check by check, and that an injective `SPRNUM` finds
each register by its address. -/

namespace Sys2Proof.Machine

/-- An implementation is well formed exactly when it passes all nine checks (R4, R70 to R75). -/
theorem configDefect_eq_none (c : Config) :
    configDefect c = none ↔
      verLegal c = true ∧ cfgLegal c = true ∧ uvrpConsistent c = true ∧ rangesLegal c = true ∧
      uprConsistent c = true ∧ ngprConsistent c = true ∧ c.xlen = .x32 ∧ layoutFits c.layout = true ∧
      sprNumInjective c.sprNum = true := by
  have hx : c.xlen = .x32 ∨ c.xlen = .x64 := by cases c.xlen <;> simp
  unfold configDefect
  cases verLegal c <;> cases cfgLegal c <;> cases uvrpConsistent c <;> cases rangesLegal c <;>
    cases uprConsistent c <;> cases ngprConsistent c <;> cases layoutFits c.layout <;>
    cases sprNumInjective c.sprNum <;> rcases hx with h | h <;> simp [h]

/-- The list of addresses has no repeats. -/
theorem allApart_iff (l : List SprAddr) : allApart l = true ↔ l.Nodup := by
  induction l with
  | nil => simp [allApart]
  | cons a l ih => simp [allApart, ih]

/-- Every register of the chapter is in the list of them. -/
theorem mem_allSprs (r : Spr) : r ∈ allSprs := by
  cases r <;> first | decide | (rename_i i; fin_cases i <;> decide)

/-- The register found at an address has that address. -/
theorem regAt_addr {t : SprNum} {a : SprAddr} {r : Spr} (h : regAt t a = some r) : sprAddrOf t r = a := by
  simpa using List.find?_some h

/-- Everything a derived quantity can be (R74): its unit's value where the unit and the configuration
registers are there, and no value else. -/
theorem whenUnit_eq_some {c : Config} {unit : Bool} {n m : Nat} :
    whenUnit c unit n = some m ↔ cfgrImpl c = true ∧ unit = true ∧ n = m := by
  unfold whenUnit
  cases cfgrImpl c <;> cases unit <;> simp

end Sys2Proof.Machine
end

