-- ==== Sys2Proof/Laws/Exceptions.lean ====
section
/-! SUPPORT. Everything taking an exception can do (60_exceptions.md R160), and what it never does. -/

namespace Sys2Proof.Machine

section
variable (s : State) (e : ExceptionKind) (ea : Option Word)

/-- `raise` under the family's entry, as a record. -/
theorem State.raise_family {co : Bool} (h : s.cfg.policies.trapEntry = .family co) :
    s.raise e ea =
      { s with
        pc := s.vectorAddress e
        delaySlot := none
        sr := entrySr co s.delaySlot.isSome s.sr
        epcr0 := s.returnAddress
        eear0 := ea.getD s.eear0
        esr0 := s.sr } := by
  simp [State.raise, h]

/-- `raise` with `TrapEntry` left open, as a record. -/
theorem State.raise_leftOpen (h : s.cfg.policies.trapEntry = .leftOpen) :
    s.raise e ea =
      { s with
        pc := s.vectorAddress e
        delaySlot := none
        sr := fixSr (setFlag (Config.draw s.draws) srSM true)
        epcr0 := Config.draw (s.draws + 1)
        eear0 := Config.draw (s.draws + 2)
        esr0 := Config.draw (s.draws + 3)
        gpr := drawGprs (s.draws + 4)
        draws := s.draws + 36 } := by
  simp [State.raise, h]

@[simp] theorem State.raise_cfg : (s.raise e ea).cfg = s.cfg := by unfold State.raise; split <;> rfl
@[simp] theorem State.raise_pc : (s.raise e ea).pc = s.vectorAddress e := by
  unfold State.raise; split <;> rfl
@[simp] theorem State.raise_delaySlot : (s.raise e ea).delaySlot = none := by
  unfold State.raise; split <;> rfl
@[simp] theorem State.raise_evba : (s.raise e ea).evba = s.evba := by unfold State.raise; split <;> rfl
@[simp] theorem State.raise_aecr : (s.raise e ea).aecr = s.aecr := by unfold State.raise; split <;> rfl
@[simp] theorem State.raise_aesr : (s.raise e ea).aesr = s.aesr := by unfold State.raise; split <;> rfl
@[simp] theorem State.raise_mem : (s.raise e ea).mem = s.mem := by unfold State.raise; split <;> rfl
@[simp] theorem State.raise_agenda : (s.raise e ea).agenda = s.agenda := by
  unfold State.raise; split <;> rfl

/-- Entry in the family leaves the bits of SR it does not name, and FO reads 1. -/
theorem entrySr_getLsbD (co slot : Bool) (v : Word) (j : Nat) (hj : j < 32) :
    (entrySr co slot v).getLsbD j =
      if j = srFO then true
      else if slot && j == srDSX then true
      else if co && j == srOVE then false
      else if j = srSM then true
      else if j = srTEE ∨ j = srIEE ∨ j = srDME ∨ j = srIME then false
      else v.getLsbD j := by
  have hcases : j = srFO ∨ j = srDSX ∨ j = srOVE ∨ j = srSM ∨ j = srTEE ∨ j = srIEE ∨ j = srDME ∨
      j = srIME ∨ (j ≠ srFO ∧ j ≠ srDSX ∧ j ≠ srOVE ∧ j ≠ srSM ∧ j ≠ srTEE ∧ j ≠ srIEE ∧ j ≠ srDME ∧
        j ≠ srIME) := by tauto
  cases co <;> cases slot <;>
    rcases hcases with h | h | h | h | h | h | h | h | ⟨h1, h2, h3, h4, h5, h6, h7, h8⟩ <;>
    (try subst h) <;>
    simp only [entrySr, fixSr, getLsbD_setFlag, hj, if_true, if_false, Bool.false_eq_true, Bool.true_and,
      Bool.false_and] <;>
    first
      | decide
      | simp [h1, h2, h3, h4, h5, h6, h7, h8]
      | simp [srFO, srDSX, srOVE, srSM, srTEE, srIEE, srDME, srIME]

/-- The handler runs in supervisor mode (R160). -/
@[simp] theorem State.raise_supervisor : (s.raise e ea).supervisor = true := by
  unfold State.raise State.supervisor State.srFlag
  split
  · rw [entrySr_getLsbD _ _ _ _ (by decide)]
    simp [srSM, srFO, srDSX, srOVE]
  · rw [fixSr_getLsbD _ _ (by decide) (by decide), getLsbD_setFlag _ _ _ _ (by decide)]
    simp

/-- SR.FO reads 1 after entry. -/
@[simp] theorem State.raise_fo : (s.raise e ea).srFlag srFO = true := by
  unfold State.raise State.srFlag
  split
  · simp [entrySr]
  · simp

/-- Entry in the family leaves every general register. -/
theorem State.raise_readGpr_family {co : Bool} (h : s.cfg.policies.trapEntry = .family co) (r : RegNo) :
    (s.raise e ea).readGpr r = s.readGpr r := by
  rw [State.raise_family s e ea h]; rfl

end

end Sys2Proof.Machine
end

