-- ==== Sys2Proof/Laws/SprAccess.lean ====
section
/-! SUPPORT. Everything the two SPR access instructions can do, said once: the gate, the read, the
destination write, the store, and the inversion of each instruction. -/

namespace Sys2Proof.Machine

/-! ### The gate (R127) -/

/-- The gate passes exactly where the access reaches the register in supervisor mode. -/
theorem sprGate_pass_iff {s : State} {used : List RegNo} {a : RegNo} {k : SprAddr} {r : Spr} :
    sprGate s used a k = .pass r ↔ Reaches s used a k r ∧ s.supervisor = true := by
  unfold sprGate
  constructor
  · intro h
    split at h
    · cases h
    rename_i hc
    split at h
    · cases h
    rename_i hr
    split at h
    · cases h
    rename_i hd
    split at h
    · cases h
    rename_i ha
    split at h
    · cases h
    rename_i r' hn
    split at h
    · rename_i hs
      cases h
      refine ⟨⟨hc, ?_, ?_, ?_, hn⟩, hs⟩
      · simpa using hr
      · cases hs : s.delaySlot <;> cases hp : s.cfg.policies.delaySlot <;> simp_all
      · cases hs : sprEaFits (s.sprEa a k) <;> cases hp : s.cfg.policies.highAddr <;> simp_all
    · cases h
  · rintro ⟨⟨hc, hr, hd, ha, hn⟩, hs⟩
    have h1 : used.all (hasGpr s.cfg) = true := by simpa using hr
    have h2 : (s.delaySlot.isSome && s.cfg.policies.delaySlot == .refuse) = false := by
      rcases hd with hd | hd <;> simp [hd]
    have h3 : (!sprEaFits (s.sprEa a k) && s.cfg.policies.highAddr == .refuse) = false := by
      rcases ha with ha | ha <;> simp [ha]
    simp [hc, h1, h2, h3, hn, hs]

/-- Outside supervisor mode an access that reaches a register ends as `USER_SPR_POLICY` says. -/
theorem sprGate_user {s : State} {used : List RegNo} {a : RegNo} {k : SprAddr} {r : Spr}
    (h : Reaches s used a k r) (hs : s.supervisor = false) :
    sprGate s used a k = .done (userSprOutcome s) := by
  obtain ⟨hc, hr, hd, ha, hn⟩ := h
  have h1 : used.all (hasGpr s.cfg) = true := by simpa using hr
  have h2 : (s.delaySlot.isSome && s.cfg.policies.delaySlot == .refuse) = false := by
    rcases hd with hd | hd <;> simp [hd]
  have h3 : (!sprEaFits (s.sprEa a k) && s.cfg.policies.highAddr == .refuse) = false := by
    rcases ha with ha | ha <;> simp [ha]
  simp [sprGate, hc, h1, h2, h3, hn, hs]

/-- Where the gate itself answers a next state, it is the illegal-instruction exception in user mode. -/
theorem sprGate_done_next {s t : State} {used : List RegNo} {a : RegNo} {k : SprAddr}
    (h : sprGate s used a k = .done (.next t)) :
    (∃ r, Reaches s used a k r) ∧ s.supervisor = false ∧
      s.cfg.policies.userSpr = .illegalInstruction ∧ t = s.raise .illegalInstruction none := by
  cases hs : s.supervisor with
  | true =>
    unfold sprGate at h
    simp only [hs] at h
    repeat' split at h
    all_goals first | cases h | simp_all
  | false =>
    unfold sprGate at h
    split at h
    · cases h
    rename_i hc
    split at h
    · cases h
    rename_i hr
    split at h
    · cases h
    rename_i hd
    split at h
    · cases h
    rename_i ha
    split at h
    · cases h
    rename_i r hn
    simp only [hs, Bool.false_eq_true, if_false, Gate.done.injEq] at h
    unfold userSprOutcome at h
    split at h
    · cases h
    · rename_i hu
      cases h
      refine ⟨⟨r, hc, ?_, ?_, ?_, hn⟩, rfl, hu, rfl⟩
      · simpa using hr
      · cases hs : s.delaySlot <;> cases hp : s.cfg.policies.delaySlot <;> simp_all
      · cases hs : sprEaFits (s.sprEa a k) <;> cases hp : s.cfg.policies.highAddr <;> simp_all
    · cases h

/-! ### The destination of a result (R128) -/

/-- Everything a destination write can do. -/
theorem State.writeDest_cases {s t : State} {d : RegNo} {v : Word} (h : s.writeDest d v = some t) :
    (t = s.writeGpr d v ∧ (d = 0#5 → s.cfg.policies.r0 = .write)) ∨
      (t = s ∧ d = 0#5 ∧ s.cfg.policies.r0 = .discard) := by
  unfold State.writeDest at h
  split at h
  · rename_i hd
    split at h
    · cases h
    · rename_i hp
      cases h
      exact .inl ⟨rfl, fun _ => hp⟩
    · rename_i hp
      cases h
      exact .inr ⟨rfl, hd, hp⟩
  · rename_i hd
    cases h
    exact .inl ⟨rfl, fun h => absurd h hd⟩

theorem State.writeDest_of_ne (s : State) {d : RegNo} (v : Word) (h : d ≠ 0#5) :
    s.writeDest d v = some (s.writeGpr d v) := by simp [State.writeDest, h]

/-! ### The read (R123, R124) -/

/-- Everything an SPR read can do: the value, and whether the free-value counter moves. -/
theorem sprRead_cases {s t : State} {r : Spr} {v : Word} (h : sprRead s r = some (v, t)) :
    (present s.cfg r = true ∧ v = s.image r ∧
        t = if s.readDraws r then s.withDraws (s.draws + 1) else s) ∨
      (present s.cfg r = false ∧ s.cfg.policies.absentSpr = .readZero ∧ v = 0 ∧ t = s) ∨
      (present s.cfg r = false ∧ s.cfg.policies.absentSpr = .draw ∧ v = Config.draw s.draws ∧
        t = s.withDraws (s.draws + 1)) := by
  unfold sprRead at h
  split at h
  · rename_i hp
    cases h
    exact .inl ⟨hp, rfl, rfl⟩
  · rename_i hp
    have hp : present s.cfg r = false := by simpa using hp
    split at h
    · cases h
    · rename_i ha
      cases h
      exact .inr (.inl ⟨hp, ha, rfl, rfl⟩)
    · rename_i ha
      cases h
      exact .inr (.inr ⟨hp, ha, rfl, rfl⟩)

/-- A read moves nothing but the free-value counter. -/
theorem sprRead_frame {s t : State} {r : Spr} {v : Word} (h : sprRead s r = some (v, t)) :
    t = s.withDraws t.draws := by
  rcases sprRead_cases h with ⟨-, -, rfl⟩ | ⟨-, -, -, rfl⟩ | ⟨-, -, -, rfl⟩
  · split <;> rfl
  · rfl
  · rfl

/-! ### The two instructions, inverted -/

/-- Everything `l.mfspr` can do when it answers a next state. -/
theorem execMfspr_next {d a : RegNo} {k : SprAddr} {s t : State} (h : execMfspr d a k s = .next t) :
    (∃ r v u w, Reaches s [d, a] a k r ∧ s.supervisor = true ∧ sprRead s r = some (v, u) ∧
        u.writeDest d v = some w ∧ t = w.advance) ∨
      (s.supervisor = false ∧ s.cfg.policies.userSpr = .illegalInstruction ∧
        (∃ r, Reaches s [d, a] a k r) ∧ t = s.raise .illegalInstruction none) := by
  unfold execMfspr at h
  split at h
  · rename_i o hg
    subst h
    obtain ⟨hr, hs, hu, rfl⟩ := sprGate_done_next hg
    exact .inr ⟨hs, hu, hr, rfl⟩
  · rename_i r hg
    obtain ⟨hr, hs⟩ := sprGate_pass_iff.mp hg
    split at h
    · cases h
    · rename_i v u hv
      split at h
      · cases h
      · rename_i w hw
        cases h
        exact .inl ⟨r, v, u, w, hr, hs, hv, hw, rfl⟩

/-- Everything a store to a present register can do when it answers a next state. -/
theorem sprStore_next {s t : State} {r : Spr} {v : Word} (h : sprStore s r v = .next t) :
    (r = .evbar ∧ t = (s.withEvba (evbaBits s.cfg.layout v)).advance) ∨
      (r = .aecr ∧ t = (s.withAecr (arithBits s.cfg.layout.arith v)).advance) ∨
      (r = .aesr ∧ t = (s.withAesr (arithBits s.cfg.layout.arith v)).advance) ∨
      (readOnly r = true ∧ s.cfg.policies.roWrite = .ignore ∧ t = s.advance) := by
  unfold sprStore at h
  cases r <;> simp only at h <;> first
    | (cases h; simp)
    | (cases hp : s.cfg.policies.roWrite <;> simp_all [readOnly])

/-- Everything `l.mtspr` can do when it answers a next state. -/
theorem execMtspr_next {a b : RegNo} {k : SprAddr} {s t : State} (h : execMtspr a b k s = .next t) :
    (∃ r, Reaches s [a, b] a k r ∧ s.supervisor = true ∧ present s.cfg r = true ∧
        sprStore s r (s.readGpr b) = .next t) ∨
      (∃ r, Reaches s [a, b] a k r ∧ s.supervisor = true ∧ present s.cfg r = false ∧
        s.cfg.policies.absentSpr ≠ .refuse ∧ t = s.advance) ∨
      (s.supervisor = false ∧ s.cfg.policies.userSpr = .illegalInstruction ∧
        (∃ r, Reaches s [a, b] a k r) ∧ t = s.raise .illegalInstruction none) := by
  unfold execMtspr at h
  split at h
  · rename_i o hg
    subst h
    obtain ⟨hr, hs, hu, rfl⟩ := sprGate_done_next hg
    exact .inr (.inr ⟨hs, hu, hr, rfl⟩)
  · rename_i r hg
    obtain ⟨hr, hs⟩ := sprGate_pass_iff.mp hg
    split at h
    · rename_i hp
      exact .inl ⟨r, hr, hs, hp, h⟩
    · rename_i hp
      have hp : present s.cfg r = false := by simpa using hp
      unfold sprStoreAbsent at h
      split at h
      · cases h
      · rename_i ha
        cases h
        exact .inr (.inl ⟨r, hr, hs, hp, by simp [ha], rfl⟩)
      · rename_i ha
        cases h
        exact .inr (.inl ⟨r, hr, hs, hp, by simp [ha], rfl⟩)

end Sys2Proof.Machine
end

