-- ==== Sys2Proof/Laws/Events.lean ====
section
/-! SUPPORT. Everything the other steps can do, said once: the arithmetic event, a taken jump, a return
from exception, reset; and the inversion of one step. -/

namespace Sys2Proof.Machine

/-! ### The arithmetic event (R141 to R147) -/

/-- The seven conditions, by index (R141). -/
theorem conditions_bits (e : ArithEvent) :
    (conditions e).getLsbD 0 = (e.cls == .addSub && e.cy) ∧
    (conditions e).getLsbD 1 = (e.cls == .addSub && e.ov) ∧
    (conditions e).getLsbD 2 = (e.cls == .mul && e.cy) ∧
    (conditions e).getLsbD 3 = (e.cls == .mul && e.ov) ∧
    (conditions e).getLsbD 4 =
      ((e.cls == .divSigned && e.dbz && e.ov) || (e.cls == .divUnsigned && e.dbz && e.cy)) ∧
    (conditions e).getLsbD 5 = (e.cls == .mac && e.cy) ∧
    (conditions e).getLsbD 6 = (e.cls == .mac && e.ov) :=
  getLsbD_sevenBits ..

/-- The flags an arithmetic instruction writes leave every other bit of SR, FO reading 1. -/
theorem State.withArithFlags_srFlag (s : State) (x : ArithStep) (j : Nat) (hj : j < 32) :
    (s.withArithFlags x).srFlag j =
      if j = srFO then true
      else if j = srOV then x.event.ov || (!x.computesOv && s.srFlag srOV)
      else if j = srCY then x.event.cy || (!x.computesCy && s.srFlag srCY)
      else s.srFlag j := by
  unfold State.withArithFlags State.srFlag
  rw [State.withSr_sr]
  by_cases hf : j = srFO
  · subst hf; simp
  · rw [fixSr_getLsbD _ _ hj hf, getLsbD_setFlag _ _ _ _ hj, getLsbD_setFlag _ _ _ _ hj]
    simp [hf]

/-- A write of the result moves nothing but general registers. -/
theorem State.writeResult_cases {s t : State} {dest : Option RegNo} {v : Word}
    (h : s.writeResult dest v = some t) : t = s ∨ ∃ d, dest = some d ∧ t = s.writeGpr d v := by
  unfold State.writeResult at h
  split at h
  · cases h; exact .inl rfl
  · rename_i d
    rcases State.writeDest_cases h with ⟨rfl, -⟩ | ⟨rfl, -, -⟩
    · exact .inr ⟨d, rfl, rfl⟩
    · exact .inl rfl

/-- What a raising instruction does to its destination (R145): a general register and the free-value
counter may move, nothing else. -/
theorem State.resultOnExc_cases {s t : State} {x : ArithStep} (h : s.resultOnExc x = some t) :
    ∃ g n, t = { s with gpr := g, draws := n } := by
  unfold State.resultOnExc at h
  split at h
  · rcases State.writeResult_cases h with rfl | ⟨d, -, rfl⟩
    · exact ⟨_, _, rfl⟩
    · exact ⟨_, _, rfl⟩
  · cases h; exact ⟨_, _, rfl⟩
  · rcases State.writeResult_cases h with rfl | ⟨d, -, rfl⟩
    · exact ⟨_, _, rfl⟩
    · exact ⟨_, _, rfl⟩

/-- Everything an arithmetic event can do when it answers a next state: complete, or raise. -/
theorem arithStep_next {x : ArithStep} {s t : State} (h : arithStep x s = .next t) :
    (∃ w, (s.withArithFlags x).writeResult x.dest x.result = some w ∧ t = w.advance ∧
        (s.srFlag srOVE = false ∨ s.arithHit x.event = some 0#7)) ∨
      (∃ hit w, s.srFlag srOVE = true ∧ s.arithHit x.event = some hit ∧ hit ≠ 0#7 ∧
        ((s.withArithFlags x).recordHit hit).resultOnExc x = some w ∧ t = w.raise .range none) := by
  have complete : ∀ (c : s.srFlag srOVE = false ∨ s.arithHit x.event = some 0#7),
      arithComplete (s.withArithFlags x) x = .next t →
      ∃ w, (s.withArithFlags x).writeResult x.dest x.result = some w ∧ t = w.advance ∧
        (s.srFlag srOVE = false ∨ s.arithHit x.event = some 0#7) := by
    intro c hc
    unfold arithComplete at hc
    split at hc
    · cases hc
    · rename_i w hw
      cases hc
      exact ⟨w, hw, rfl, c⟩
  unfold arithStep at h
  split at h
  · cases h
  split at h
  · rename_i hove
    split at h
    · cases h
    rename_i hit hh
    split at h
    · rename_i h0
      subst h0
      exact .inl (complete (.inr hh) h)
    · rename_i h0
      unfold arithRaise at h
      split at h
      · cases h
      · rename_i w hw
        cases h
        exact .inr ⟨hit, w, hove, hh, h0, hw, rfl⟩
  · rename_i hove
    exact .inl (complete (.inl (by simpa using hove)) h)

/-- The record touches AESR alone. -/
theorem State.recordHit_cases (s : State) (hit : BitVec 7) :
    (present s.cfg .aesr = true ∧ s.recordHit hit = s.withAesr (s.aesr ||| hit)) ∨
      (present s.cfg .aesr = false ∧ s.recordHit hit = s) := by
  unfold State.recordHit
  cases present s.cfg .aesr <;> simp

/-! ### Control transfer and reset -/

/-- Everything a taken jump can do when it answers a next state. -/
theorem jumpStep_next {target : Word} {s t : State} (h : jumpStep target s = .next t) :
    s.delaySlot = none ∧ ((s.cfg.cpucfgr.nd = true ∧ t = s.goTo target) ∨
      (s.cfg.cpucfgr.nd = false ∧ t = s.enterSlot target)) := by
  unfold jumpStep at h
  split at h
  · cases h
  · rename_i hd
    have hd : s.delaySlot = none := by simpa using hd
    split at h
    · rename_i hn
      cases h
      exact ⟨hd, .inl ⟨hn, rfl⟩⟩
    · rename_i hn
      cases h
      exact ⟨hd, .inr ⟨by simpa using hn, rfl⟩⟩

/-- Everything a return from exception can do when it answers a next state. -/
theorem returnStep_next {s t : State} (h : returnStep s = .next t) :
    s.delaySlot = none ∧ s.supervisor = true ∧ t = s.returnFromException := by
  unfold returnStep at h
  split at h
  · cases h
  · rename_i hd
    split at h
    · rename_i hs
      cases h
      exact ⟨by simpa using hd, hs, rfl⟩
    · cases h

@[simp] theorem State.applyReset_cfg (s : State) : s.applyReset.cfg = s.cfg := by
  simp only [State.applyReset, State.resetFor]
@[simp] theorem State.applyReset_mem (s : State) : s.applyReset.mem = s.mem := by
  simp only [State.applyReset, State.resetFor]
@[simp] theorem State.applyReset_agenda (s : State) : s.applyReset.agenda = s.agenda := by
  simp only [State.applyReset, State.resetFor]
@[simp] theorem State.applyReset_delaySlot (s : State) : s.applyReset.delaySlot = none := by
  simp only [State.applyReset, State.resetFor]
@[simp] theorem State.applyReset_evba (s : State) : s.applyReset.evba = s.cfg.evbaReset := by
  simp only [State.applyReset, State.resetFor]
@[simp] theorem State.applyReset_sr (s : State) : s.applyReset.sr = fixSr s.cfg.srReset := by
  simp only [State.applyReset, State.resetFor]

/-! ### One step, inverted -/

/-- Everything the processor's own instruction can do when it answers a next state. -/
theorem runInstruction_next {s t : State} (h : runInstruction s = .next t) :
    (s.fetch = .misaligned ∧ t = s.raise .alignment (some s.pc)) ∨
      (∃ bs i, s.fetch = .bytes bs ∧ s.decodeAt bs = .insn i ∧ exec i s = .next t) := by
  unfold runInstruction at h
  split at h
  · rename_i hf
    cases h
    exact .inl ⟨hf, rfl⟩
  · cases h
  · rename_i bs hf
    split at h
    · cases h
    · rename_i i hi
      exact .inr ⟨bs, i, hf, hi, h⟩

/-- Everything one step can do when it answers a next state: the agenda's head runs on the state with
that head taken off. -/
theorem step_next {s t : State} (h : step s = .next t) :
    configDefect s.cfg = none ∧ runInput s.nextInput (s.withAgenda s.agenda.tail) = .next t := by
  unfold step at h
  split at h
  · cases h
  · rename_i hc
    refine ⟨hc, ?_⟩
    split at h
    · rename_i ha
      have : s.withAgenda s.agenda.tail = s := by
        unfold State.withAgenda
        rw [ha, List.tail_nil, ← ha]
      rw [this]
      simpa [State.nextInput, ha, runInput] using h
    · rename_i i rest ha
      simpa [State.nextInput, ha] using h

end Sys2Proof.Machine
end

