-- ==== Sys2Proof/Laws/Memory.lean ====
section
/-! SUPPORT. The laws of memory: reading after a write, and that every memory operation keeps the
canonical form. -/

namespace Sys2Proof.Machine

/-- A byte just written reads as written. -/
theorem Memory.read_write_same (m : Memory) (a : Nat) (v : Byte) :
    Memory.read (Memory.write m a v) a = some v := by
  induction m with
  | nil => simp [Memory.write, Memory.read]
  | cons c rest ih =>
    obtain ⟨b, u⟩ := c
    unfold Memory.write
    split
    · simp [Memory.read]
    · split
      · simp [Memory.read]
      · rename_i hne
        simpa [Memory.read, Ne.symm hne] using ih

/-- A write leaves every other byte alone. -/
theorem Memory.read_write_other (m : Memory) {a b : Nat} (v : Byte) (h : b ≠ a) :
    Memory.read (Memory.write m a v) b = Memory.read m b := by
  induction m with
  | nil => simp [Memory.write, Memory.read, Ne.symm h]
  | cons c rest ih =>
    obtain ⟨x, u⟩ := c
    unfold Memory.write
    split
    · simp [Memory.read, Ne.symm h]
    · split
      · rename_i hax
        subst hax
        simp [Memory.read, Ne.symm h]
      · simp only [Memory.read, ih]

theorem Memory.risingFrom_write (m : Memory) (a : Nat) (v : Byte) (low : Nat) (hlow : low ≤ a)
    (hm : Memory.risingFrom low m = true) : Memory.risingFrom low (Memory.write m a v) = true := by
  induction m generalizing low with
  | nil => simp [Memory.write, Memory.risingFrom, hlow]
  | cons c rest ih =>
    obtain ⟨x, u⟩ := c
    simp only [Memory.risingFrom, Bool.and_eq_true, decide_eq_true_eq] at hm
    unfold Memory.write
    split
    · simp only [Memory.risingFrom, Bool.and_eq_true, decide_eq_true_eq]
      exact ⟨hlow, by omega, hm.2⟩
    · split
      · rename_i hax
        subst hax
        simpa [Memory.risingFrom, hlow] using hm.2
      · simp only [Memory.risingFrom, Bool.and_eq_true, decide_eq_true_eq]
        exact ⟨hm.1, ih (x + 1) (by omega) hm.2⟩

theorem Memory.all_write (m : Memory) (a : Nat) (v : Byte) (ha : a < 2 ^ 32)
    (hm : (m.all fun c => c.1 < 2 ^ 32) = true) :
    ((Memory.write m a v).all fun c => c.1 < 2 ^ 32) = true := by
  induction m with
  | nil => simpa [Memory.write] using ha
  | cons c rest ih =>
    obtain ⟨x, u⟩ := c
    simp only [List.all_cons, Bool.and_eq_true, decide_eq_true_eq] at hm
    unfold Memory.write
    split
    · simp only [List.all_cons, Bool.and_eq_true, decide_eq_true_eq]
      exact ⟨ha, hm.1, hm.2⟩
    · split
      · simp only [List.all_cons, Bool.and_eq_true, decide_eq_true_eq]
        exact ⟨ha, hm.2⟩
      · simp only [List.all_cons, Bool.and_eq_true, decide_eq_true_eq]
        exact ⟨hm.1, ih hm.2⟩

/-- A write of one byte keeps the canonical form. -/
theorem Memory.wf_write {m : Memory} {a : Nat} (v : Byte) (ha : a < 2 ^ 32) (hm : Memory.wf m = true) :
    Memory.wf (Memory.write m a v) = true := by
  simp only [Memory.wf, Bool.and_eq_true] at hm ⊢
  exact ⟨Memory.risingFrom_write m a v 0 (Nat.zero_le a) hm.1, Memory.all_write m a v ha hm.2⟩

/-- A write of several bytes keeps the canonical form. -/
theorem Memory.wf_writeBytes (bs : List Byte) {m : Memory} (a : Word) (hm : Memory.wf m = true) :
    Memory.wf (Memory.writeBytes m a bs) = true := by
  induction bs generalizing m a with
  | nil => exact hm
  | cons b bs ih => exact ih (a + 1) (Memory.wf_write b a.isLt hm)

theorem Memory.wf_nil : Memory.wf [] = true := rfl

/-- Placing an instruction keeps the canonical form of memory. -/
theorem State.placeWord_wf (s : State) (w : Word) (h : Memory.wf s.mem = true) :
    Memory.wf (s.placeWord w).mem = true := Memory.wf_writeBytes _ _ h

/-- The memory after reset is in canonical form. -/
theorem State.reset_memory_wf : Memory.wf State.reset.mem = true := rfl

/-- A fetched list of bytes has four. -/
theorem Memory.readWord_length {m : Memory} {a : Word} {bs : List Byte}
    (h : Memory.readWord m a = some bs) : bs.length = 4 := by
  unfold Memory.readWord at h
  split at h
  · cases h; rfl
  · cases h

end Sys2Proof.Machine
end

