-- ==== Sys2Proof/Laws/Step.lean ====
section
/-! SUPPORT. Everything one step can do when it answers a next state, said once; and what a fetch finds
where an instruction was placed. -/

namespace Sys2Proof.Machine

/-! ### What the shared operations leave alone -/

/-- A destination write moves general registers alone. -/
theorem State.writeDest_frame {s t : State} {d : RegNo} {v : Word} (h : s.writeDest d v = some t) :
    ∃ g, t = { s with gpr := g } := by
  rcases State.writeDest_cases h with ⟨rfl, -⟩ | ⟨rfl, -, -⟩ <;> exact ⟨_, rfl⟩

/-- A write of a result moves general registers alone. -/
theorem State.writeResult_frame {s t : State} {dest : Option RegNo} {v : Word}
    (h : s.writeResult dest v = some t) : ∃ g, t = { s with gpr := g } := by
  rcases State.writeResult_cases h with rfl | ⟨d, -, rfl⟩ <;> exact ⟨_, rfl⟩

/-- The record moves AESR alone, and a bit of it that was 1 stays 1. -/
theorem State.recordHit_frame (s : State) (hit : BitVec 7) :
    ∃ m, s.recordHit hit = s.withAesr m ∧ ∀ j, s.aesr.getLsbD j = true → m.getLsbD j = true := by
  rcases State.recordHit_cases s hit with ⟨-, e⟩ | ⟨-, e⟩
  · exact ⟨_, e, fun j hj => by simp [BitVec.getLsbD_or, hj, -BitVec.getLsbD_eq_getElem]⟩
  · exact ⟨s.aesr, e, fun _ h => h⟩

/-- The flags of an arithmetic instruction leave SM and EPH, and FO reads 1. -/
theorem State.withArithFlags_mode (s : State) (x : ArithStep) :
    (s.withArithFlags x).supervisor = s.supervisor ∧
      (s.withArithFlags x).srFlag srEPH = s.srFlag srEPH ∧ (s.withArithFlags x).srFlag srFO = true :=
  ⟨State.withArithFlags_srFlag s x srSM (by decide), State.withArithFlags_srFlag s x srEPH (by decide),
    State.withArithFlags_srFlag s x srFO (by decide)⟩

/-- The flags of an arithmetic instruction move no vector. -/
theorem State.withArithFlags_vectorAddress (s : State) (x : ArithStep) (e : ExceptionKind) :
    (s.withArithFlags x).vectorAddress e = s.vectorAddress e := by
  simp only [State.vectorAddress, (State.withArithFlags_mode s x).2.1]
  rfl

/-! ### One step -/

/-- One step at an agenda's head runs that entry. -/
theorem step_of_agenda {s : State} {i : Input} {rest : List Input} (hc : configDefect s.cfg = none)
    (h : s.agenda = i :: rest) : step s = runInput i (s.withAgenda rest) := by
  simp [step, hc, h]

/-- Everything one step can do when it answers a next state. The implementation and memory stay; and it
is reset; or an exception is taken, with SR as it was or with an arithmetic instruction's flags, and AESR
as it was or, in a raising arithmetic event, with no bit cleared; or a return from exception, in
supervisor mode; or a taken jump; or control advances with at most SR's flags, a general register and the
free-value counter moved; or an `l.mtspr` stores into a present register. -/
theorem step_cases {s t : State} (h : step s = .next t) :
    configDefect s.cfg = none ∧ t.cfg = s.cfg ∧ t.mem = s.mem ∧
    ((s.nextInput = .reset ∧ t = (s.withAgenda s.agenda.tail).applyReset) ∨
      (∃ e ea x m g n,
        t = State.raise { s with agenda := s.agenda.tail, sr := x, aesr := m, gpr := g, draws := n } e ea ∧
        (x = s.sr ∨ ∃ y, x = (s.withArithFlags y).sr) ∧
        (m = s.aesr ∨ (s.NextRaises ∧ ∀ j, s.aesr.getLsbD j = true → m.getLsbD j = true))) ∨
      (s.nextInput = .exceptionReturn ∧ s.supervisor = true ∧
        t = (s.withAgenda s.agenda.tail).returnFromException) ∨
      (∃ target, s.nextInput = .takenJump target ∧
        ((s.cfg.cpucfgr.nd = true ∧ t = (s.withAgenda s.agenda.tail).goTo target) ∨
          (s.cfg.cpucfgr.nd = false ∧ t = (s.withAgenda s.agenda.tail).enterSlot target))) ∨
      (∃ x g n, t = State.advance { s with agenda := s.agenda.tail, sr := x, gpr := g, draws := n } ∧
        (x = s.sr ∨ ∃ y, x = (s.withArithFlags y).sr)) ∨
      (∃ r v, s.NextWrites r ∧ sprStore (s.withAgenda s.agenda.tail) r v = .next t)) := by
  obtain ⟨hc, hr⟩ := step_next h
  refine ⟨hc, ?_⟩
  unfold runInput at hr
  split at hr
  · rename_i hi
    rcases runInstruction_next hr with ⟨-, rfl⟩ | ⟨bs, i, hf, hd, he⟩
    · exact ⟨by simp, by simp,
        .inr (.inl ⟨_, _, s.sr, s.aesr, s.gpr, s.draws, rfl, .inl rfl, .inl rfl⟩)⟩
    · cases i with
      | mfspr d a k =>
        rcases execMfspr_next he with ⟨r, v, u, w, -, -, h1, h2, rfl⟩ | ⟨-, -, -, rfl⟩
        · have hu := sprRead_frame h1
          generalize u.draws = n at hu
          subst hu
          obtain ⟨g, rfl⟩ := State.writeDest_frame h2
          exact ⟨rfl, rfl, .inr (.inr (.inr (.inr (.inl ⟨s.sr, g, n, rfl, .inl rfl⟩))))⟩
        · exact ⟨by simp, by simp,
            .inr (.inl ⟨_, _, s.sr, s.aesr, s.gpr, s.draws, rfl, .inl rfl, .inl rfl⟩)⟩
      | mtspr a b k =>
        rcases execMtspr_next he with ⟨r, hr, hs, -, h1⟩ | ⟨-, -, -, -, -, rfl⟩ | ⟨-, -, -, rfl⟩
        · have : t.cfg = s.cfg ∧ t.mem = s.mem := by
            rcases sprStore_next h1 with ⟨-, rfl⟩ | ⟨-, rfl⟩ | ⟨-, rfl⟩ | ⟨-, -, rfl⟩ <;> exact ⟨rfl, rfl⟩
          refine ⟨this.1, this.2,
            .inr (.inr (.inr (.inr (.inr ⟨r, _, ⟨a, b, k, ?_, hr.named, hs⟩, h1⟩))))⟩
          have hf' : s.fetch = .bytes bs := hf
          have hd' : s.decodeAt bs = .insn (.mtspr a b k) := hd
          simp [State.nextInstr, hi, hf', hd', Decoded.toOption]
        · exact ⟨rfl, rfl, .inr (.inr (.inr (.inr (.inl ⟨s.sr, s.gpr, s.draws, rfl, .inl rfl⟩))))⟩
        · exact ⟨by simp, by simp,
            .inr (.inl ⟨_, _, s.sr, s.aesr, s.gpr, s.draws, rfl, .inl rfl, .inl rfl⟩)⟩
  · rename_i x hi
    rcases arithStep_next hr with ⟨w, hw, rfl, -⟩ | ⟨hit, w, ho, hh, h0, hw, rfl⟩
    · obtain ⟨g, rfl⟩ := State.writeResult_frame hw
      exact ⟨rfl, rfl, .inr (.inr (.inr (.inr (.inl ⟨_, g, s.draws, rfl, .inr ⟨x, rfl⟩⟩))))⟩
    · obtain ⟨m, hm, hm'⟩ := State.recordHit_frame ((s.withAgenda s.agenda.tail).withArithFlags x) hit
      rw [hm] at hw
      obtain ⟨g, n, rfl⟩ := State.resultOnExc_cases hw
      exact ⟨by simp; rfl, by simp; rfl,
        .inr (.inl ⟨_, _, _, m, g, n, rfl, .inr ⟨x, rfl⟩, .inr ⟨⟨x, hit, hi, ho, hh, h0⟩, hm'⟩⟩)⟩
  · rename_i target hi
    obtain ⟨-, h⟩ := jumpStep_next hr
    rcases h with ⟨a, rfl⟩ | ⟨a, rfl⟩
    · exact ⟨rfl, rfl, .inr (.inr (.inr (.inl ⟨target, hi, .inl ⟨a, rfl⟩⟩)))⟩
    · exact ⟨rfl, rfl, .inr (.inr (.inr (.inl ⟨target, hi, .inr ⟨a, rfl⟩⟩)))⟩
  · rename_i hi
    obtain ⟨-, b, rfl⟩ := returnStep_next hr
    exact ⟨rfl, rfl, .inr (.inr (.inl ⟨hi, b, rfl⟩))⟩
  · rename_i hi
    cases hr
    exact ⟨by simp, by simp, .inl ⟨hi, rfl⟩⟩

/-! ### The fetch of a placed word -/

/-- Rounding an address down makes it a multiple of four, with room for a word before the space's end. -/
theorem wordAligned_rounded (a : Word) :
    (a &&& ~~~3#32).toNat + 3 < 2 ^ 32 ∧ wordAligned (a &&& ~~~3#32) = true := by
  have h0 : (a &&& ~~~3#32).extractLsb' 0 2 = 0#2 := by
    apply BitVec.eq_of_getLsbD_eq
    intro j hj
    interval_cases j <;> simp
  have h1 : (a &&& ~~~3#32).toNat % 4 = 0 := by
    have := congrArg BitVec.toNat h0
    simpa [BitVec.extractLsb'_toNat] using this
  refine ⟨by have := (a &&& ~~~3#32).isLt; omega, ?_⟩
  simp only [wordAligned, takeBits, h0]
  rfl

/-- The fetch finds the bytes of a placed word. -/
theorem State.placeWord_fetch (s : State) (w : Word) :
    (s.placeWord w).fetch = .bytes (wordBytes s.cfg.byteOrder w) := by
  obtain ⟨h1, h2⟩ := wordAligned_rounded s.pc
  have e : (s.placeWord w).pc = s.pc &&& ~~~3#32 := rfl
  have em : (s.placeWord w).mem =
      Memory.writeBytes s.mem (s.pc &&& ~~~3#32) (wordBytes s.cfg.byteOrder w) := rfl
  have hb : ∃ b0 b1 b2 b3, wordBytes s.cfg.byteOrder w = [b0, b1, b2, b3] := by
    unfold wordBytes; split <;> exact ⟨_, _, _, _, rfl⟩
  obtain ⟨b0, b1, b2, b3, hb⟩ := hb
  simp only [State.fetch, e, em, hb, h2, if_true, Memory.writeBytes]
  generalize s.pc &&& ~~~3#32 = a at *
  have a1 : (a + 1).toNat = a.toNat + 1 := by rw [BitVec.toNat_add]; simp; omega
  have a2 : (a + 2).toNat = a.toNat + 2 := by rw [BitVec.toNat_add]; simp; omega
  have a3 : (a + 3).toNat = a.toNat + 3 := by rw [BitVec.toNat_add]; simp; omega
  have a2' : (a + 1 + 1).toNat = a.toNat + 2 := by
    rw [show a + 1 + 1 = a + 2 by rw [BitVec.add_assoc]; rfl]; exact a2
  have a3' : (a + 1 + 1 + 1).toNat = a.toNat + 3 := by
    rw [show a + 1 + 1 + 1 = a + 3 by rw [BitVec.add_assoc, BitVec.add_assoc]; rfl]; exact a3
  simp only [Memory.readWord, a1, a2, a3, a2', a3']
  rw [Memory.read_write_same]
  repeat (first | rw [Memory.read_write_same] | rw [Memory.read_write_other _ _ (by omega)])

end Sys2Proof.Machine
end

