-- ==== Sys2Proof/Tests/Slice0.lean ====
section
/-! SUPPORT. Tests: the well-formedness checks, words of the spec decoded, accesses and events of
95_test_vectors.md (the number of each vector stands in its comment), and for every statement with
hypotheses a concrete state and operands that meet them. -/

namespace Sys2Proof.Tests

open Sys2Proof Sys2Proof.Machine

/-! ### Helpers -/

/-- The start state of 95_test_vectors.md section 2.7: after reset, at pc = 0x2000. -/
def start (c : Config) : State := { State.resetFor c with pc := 0x2000 }

/-- EX1 with the defaults of R5. -/
def ex1 : State := start (exampleOne specPolicies)

/-- EX2 with the defaults of R5. -/
def ex2 : State := start (exampleTwo specPolicies)

/-- EX1 with other policies. -/
def ex1p (p : Policies) : State := start (exampleOne p)

/-- EX1 with ISR0 to ISR7 present, ISR1 supplied. -/
def isrConfig (p : Policies) : Config :=
  { exampleOne p with
    cpucfgr := { (exampleOne p).cpucfgr with isrp := true }
    isrValue := #v[none, some 0xABCD, none, none, none, none, none, none] }

/-- EX1 with sixteen general registers. -/
def smallFile : Config :=
  { exampleOne specPolicies with
    cpucfgr := { (exampleOne specPolicies).cpucfgr with cgf := true }
    ngpr := 16 }

/-- EX1 without delay slots. -/
def noSlots : Config :=
  { exampleOne specPolicies with
    cpucfgr := { (exampleOne specPolicies).cpucfgr with nd := true } }

/-- `s` in user mode. -/
def user (s : State) : State := { s with sr := 0x8000 }

/-- `s` with SR.OVE set, in supervisor mode. -/
def ove (s : State) : State := { s with sr := 0x9001 }

/-- What `f` reads of the next state. -/
def after {α : Type} (o : Result) (f : State → α) : Option α :=
  match o with
  | .next t => some (f t)
  | _ => none

/-- The name of a refusal. -/
def refusal : Result → Option Refusal
  | .refused q => some q
  | _ => none

/-- The name of a fault. -/
def faulted : Result → Option Fault
  | .fault q => some q
  | _ => none

/-- The fields of `Reaches` as one check. -/
def reaches (s : State) (used : List RegNo) (a : RegNo) (k : SprAddr) (r : Spr) : Bool :=
  configDefect s.cfg == none && used.all (hasGpr s.cfg) &&
    (s.delaySlot == none || s.cfg.policies.delaySlot == .execute) &&
    (sprEaFits (s.sprEa a k) || s.cfg.policies.highAddr == .truncate) && s.sprNamed a k == some r

theorem reaches_of_check {s : State} {used : List RegNo} {a : RegNo} {k : SprAddr} {r : Spr}
    (h : reaches s used a k r = true) : Reaches s used a k r := by
  simp only [reaches, Bool.and_eq_true, Bool.or_eq_true, beq_iff_eq, List.all_eq_true] at h
  exact ⟨h.1.1.1.1, h.1.1.1.2, h.1.1.2, h.1.2, h.2⟩

/-- An addition that carries and overflows (M1 to M3, P4). -/
def addBoth (dest : Option RegNo) : ArithStep :=
  { event := { cls := .addSub, cy := true, ov := true, dbz := false }
    computesCy := true, computesOv := true, dest := dest, result := 0 }

/-! ### Well-formedness: each check refuses a term (W1 to W10) -/

theorem test_W1_W6_W8 : configDefect (exampleOne specPolicies) = none ∧
    configDefect (exampleTwo specPolicies) = none ∧ configDefect referenceConfig = none ∧
    configDefect { exampleOne specPolicies with
      vr := { rev := 8, uvrp := false, cfg := 0, ver := 0x12 } } = none ∧
    configDefect { exampleOne specPolicies with
      upr := { (exampleOne specPolicies).upr with dmp := false }
      dmmucfgr := { (exampleOne specPolicies).dmmucfgr with nae := 5 } } = none := by decide

theorem test_W2 : ∀ v ∈ [0x0F#8, 0x1A#8], configDefect { exampleOne specPolicies with
    vr := { rev := 8, uvrp := true, cfg := 0, ver := v } } = some .verIllegal := by decide

theorem test_W2_bounds : ∀ v ∈ [0x10#8, 0x19#8], configDefect { exampleOne specPolicies with
    vr := { rev := 8, uvrp := true, cfg := 0, ver := v } } = none := by decide

theorem test_W3 : configDefect { exampleOne specPolicies with
    vr := { rev := 8, uvrp := true, cfg := 100, ver := 0x12 } } = some .cfgIllegal := by decide

theorem test_W4 : configDefect { exampleOne specPolicies with
      vr := { rev := 8, uvrp := true, cfg := 50, ver := 0x12 } } = some .uvrpInconsistent ∧
    configDefect { exampleOne specPolicies with
      vr := { rev := 8, uvrp := false, cfg := 50, ver := 0x12 } } = none := by decide

theorem test_W5 : configDefect { exampleOne specPolicies with
    cpucfgr := { (exampleOne specPolicies).cpucfgr with avrp := false } } = some .uvrpInconsistent := by
  decide

theorem test_W7_W9 : configDefect { exampleOne specPolicies with
      dmmucfgr := { (exampleOne specPolicies).dmmucfgr with nae := 5 } } = some .rangesIllegal ∧
    configDefect { exampleOne specPolicies with
      dccfgr := { (exampleOne specPolicies).dccfgr with ncw := 6 } } = some .rangesIllegal ∧
    configDefect { exampleOne specPolicies with
      dccfgr := { (exampleOne specPolicies).dccfgr with ncs := 11 } } = some .rangesIllegal := by decide

theorem test_W10 : configDefect { exampleTwo specPolicies with
    upr := { (exampleTwo specPolicies).upr with ttp := true } } = some .uprInconsistent := by decide

theorem test_ngpr_refused : configDefect { exampleOne specPolicies with ngpr := 31 } =
    some .ngprInconsistent ∧ configDefect { smallFile with ngpr := 32 } = some .ngprInconsistent := by
  decide

theorem test_xlen64_refused : configDefect { exampleOne specPolicies with xlen := .x64 } =
    some .xlen64 := by decide

theorem test_layout_refused : configDefect { exampleOne specPolicies with
      layout := { defaultLayout with evbarEvba := 14 } } = some .layoutOverlaps ∧
    configDefect { exampleOne specPolicies with
      layout := { defaultLayout with vr2 := { cpuid := 23, ver := 0 } } } = some .layoutOverlaps := by decide

theorem test_sprNum_refused : configDefect { exampleOne specPolicies with
      sprNum := { defaultSprNum with aesr := 12 } } = some .sprNumNotInjective ∧
    configDefect { exampleOne specPolicies with
      sprNum := { defaultSprNum with aesr := 17 } } = some .sprNumNotInjective := by decide

/-- A25: register 16 does not exist where there are sixteen, register 15 does. -/
theorem test_insn_ill_formed : (Instr.mfspr 16 0 0).wellFormed smallFile = false ∧
    (Instr.mtspr 15 16 0).wellFormed smallFile = false ∧
    (Instr.mfspr 15 15 0).wellFormed smallFile = true ∧ smallFile.wellFormed = true := by decide

/-! ### Words of section 2.6, bit by bit -/

/-- E1, E13: opcode, D, A, K. -/
theorem test_decode_mfspr :
    decode (0b101101#6 ++ 0b00011#5 ++ 0b00000#5 ++ 0b0000000000000000#16) = .insn (.mfspr 3 0 0) ∧
    decode (0b101101#6 ++ 0b00110#5 ++ 0b00100#5 ++ 0b0000000000000101#16) = .insn (.mfspr 6 4 5) ∧
    decode (0b101101#6 ++ 0b01000#5 ++ 0b00000#5 ++ 0b0000000000011100#16) = .insn (.mfspr 8 0 28) ∧
    decode 0xB7FFFFFF = .insn (.mfspr 31 31 0xFFFF) := by decide

/-- E15, E21, E23, E24: opcode, K[15:11], A, B, K[10:0]. -/
theorem test_decode_mtspr :
    decode (0b110000#6 ++ 0b00000#5 ++ 0b00000#5 ++ 0b00011#5 ++ 0b00000001100#11) =
      .insn (.mtspr 0 3 12) ∧
    decode (0b110000#6 ++ 0b00000#5 ++ 0b00010#5 ++ 0b00011#5 ++ 0b00000000000#11) =
      .insn (.mtspr 2 3 0) ∧
    decode (0b110000#6 ++ 0b00001#5 ++ 0b00000#5 ++ 0b00011#5 ++ 0b00000000000#11) =
      .insn (.mtspr 0 3 0x0800) ∧
    decode 0xC1401805 = .insn (.mtspr 0 3 0x5005) := by decide

/-- E26 and the major opcodes beside the two rows: not specified. -/
theorem test_decode_others : decode 0x00000000 = .rejected .notSpecified ∧
    decode 0xE0000000 = .rejected .notSpecified ∧ decode 0xFFFFFFFF = .rejected .notSpecified ∧
    decode 0xB0000000 = .rejected .notSpecified ∧ decode 0xB8000000 = .rejected .notSpecified ∧
    decode 0xBC000000 = .rejected .notSpecified ∧ decode 0xC4000000 = .rejected .notSpecified := by decide

/-- The encoder writes the same words (E12, E24), and the opcode table's numbering reads them. -/
theorem test_encode : encode (.mfspr 6 4 5) = 0xB4C40005 ∧ encode (.mtspr 0 3 0x5005) = 0xC1401805 ∧
    decodeTableWord 32 0xB4C40005 = some (.mfspr 6 4 5) ∧
    decodeTableWord 32 0xC1401805 = some (.mtspr 0 3 0x5005) ∧ decodeTableWord 32 0x15000000 = none := by
  decide

/-- Three bytes are no word. -/
theorem test_short : decodeBytes .big [0xB4, 0x60, 0x00] = .rejected .notOneWord := by decide

/-! ### Register images and derived quantities (EX1, V2, V7, V9) -/

theorem test_images : ex1.image .vr = 0x12000048 ∧ ex1.image .upr = 0x0000053F ∧
    ex1.image .cpucfgr = 0x00005820 ∧ ex1.image .dmmucfgr = 0x00000418 ∧
    ex1.image .dccfgr = 0x000026C1 ∧ ex1.image .iccfgr = 0x000006C1 ∧
    ex1.image .vr2 = 0x01000501 ∧ ex1.image .avr = 0x01030000 ∧ ex2.image .vr = 0x103C0001 := by decide

theorem test_image_extremes :
    uprImage defaultLayout.upr
        { up := true, dcp := true, icp := true, dmp := true, imp := true, mp := true, dup := true,
          pcup := true, pmp := true, picp := true, ttp := true, cup := 0xFF } = 0xFF0007FF ∧
    mmucfgrImage defaultLayout.mmucfgr
        { ntw := 3, nts := 7, nae := 4, cri := true, pri := true, teiri := true, htr := true } =
      0x00000F9F ∧
    dccfgrImage defaultLayout.dccfgr
        { ncw := 5, ncs := 10, bs := true, cws := true, ccri := true, cbiri := true, cbpri := true,
          cblri := true, cbfri := true, cbwbri := true } = 0x00007FD5 := by decide

theorem test_derived : dtlbWays (exampleOne specPolicies) = some 1 ∧
    dtlbSets (exampleOne specPolicies) = some 64 ∧ datbEntries (exampleOne specPolicies) = some 0 ∧
    dcBytes (exampleOne specPolicies) = some 16384 ∧ icBytes (exampleOne specPolicies) = some 16384 ∧
    shadowGprFiles (exampleOne specPolicies) = some 0 ∧ debugPairs (exampleOne specPolicies) = none ∧
    dtlbWays (exampleTwo specPolicies) = none := by decide

/-! ### Accesses of section 2.7 -/

/-- A5: the address is an OR, not a sum. -/
theorem test_A5 : after (exec (.mfspr 6 4 5) (ex1.writeGpr 4 5)) (fun t => (t.readGpr 6, t.pc)) =
    some (0x000026C1, 0x2004) := by decide

/-- A7: D = A. -/
theorem test_A7 : after (exec (.mfspr 3 3 0) (ex1.writeGpr 3 10)) (fun t => t.readGpr 3) =
    some 0x01030000 := by decide

/-- A8, A9, A11, A17: the refusals of `l.mfspr`. -/
theorem test_mfspr_refusals :
    refusal (exec (.mfspr 6 4 5) (ex1.writeGpr 4 0x10000)) = some .sprAddressOutOfRange ∧
    refusal (exec (.mfspr 3 0 17) ex1) = some .sprOutsideSpec ∧
    refusal (exec (.mfspr 8 0 21) ex1) = some .sprAbsent ∧
    refusal (exec (.mfspr 0 0 0) ex1) = some .writeToR0 ∧
    refusal (exec (.mfspr 31 31 0xFFFF) (start smallFile)) = some .noSuchGpr := by decide

/-- A14, A15, A16: privilege comes before presence and after classification. -/
theorem test_user_order : faulted (exec (.mfspr 3 0 0) (user ex1)) = some .sprAccessInUserMode ∧
    faulted (exec (.mfspr 8 0 21) (user ex1)) = some .sprAccessInUserMode ∧
    refusal (exec (.mfspr 3 0 17) (user ex1)) = some .sprOutsideSpec := by decide

/-- X1, A22, A23: writes. -/
theorem test_mtspr_writes :
    after (exec (.mtspr 0 3 11) (ex1.writeGpr 3 0x12345678)) (fun t => (t.evba, t.image .evbar)) =
      some (0x091A2, 0x12344000) ∧
    after (exec (.mtspr 2 3 0) ((ex1.writeGpr 2 12).writeGpr 3 0x13)) (fun t => (t.aecr, t.pc)) =
      some (0x13, 0x2004) ∧
    after (exec (.mtspr 3 3 0) (ex1.writeGpr 3 13)) (fun t => t.aesr) = some 0x0D := by decide

/-- A13, A21, X14. -/
theorem test_mtspr_refusals : refusal (exec (.mtspr 0 3 21) (start (isrConfig specPolicies))) =
      some .isrWrite ∧
    refusal (exec (.mtspr 0 3 12) ex2) = some .sprAbsent ∧
    refusal (exec (.mtspr 0 3 0) (ex1p { specPolicies with roWrite := .refuse })) =
      some .writeToReadOnlySpr := by decide

/-! ### Vectors and events (B4, B5, B8, M3, M7, M8, M14, P4) -/

theorem test_vectors : { ex1 with evba := 0x091A2, sr := 0xC001 }.vectorAddress .range = 0xF2344B00 ∧
    { ex1 with evba := 0x7FFFF }.vectorAddress .range = 0xFFFFEB00 ∧
    { ex1 with evba := 0x78000, sr := 0xC001 }.vectorAddress .range = 0xF0000B00 ∧
    { ex2 with evba := 0x7FFFF }.vectorAddress .range = 0x00000B00 := by decide

/-- T43 in a layout with EVBA at bits 18:0: the image moves, the vectors do not. -/
theorem test_T43_other_layout :
    let c := { exampleOne specPolicies with layout := { defaultLayout with evbarEvba := 0 } }
    let s := { start c with evba := 0x091A2 }
    configDefect c = none ∧ s.image .evbar = 0x000091A2 ∧ s.vectorAddress .range = 0x12344B00 := by decide

/-- R26: a MAC event raises without a MAC unit (log 38). -/
theorem test_mac_without_unit :
    let c := { exampleOne specPolicies with upr := { (exampleOne specPolicies).upr with mp := false } }
    let x := { addBoth none with event := { cls := .mac, cy := false, ov := true, dbz := false } }
    configDefect c = none ∧ after (arithStep x { ove (start c) with aecr := 0x60 })
      (fun t => (t.aesr, t.pc)) = some (0x40, 0xB00) := by decide

/-- P4, step 1: the flags are in the SR saved, AESR has both causes. -/
theorem test_P4 : after (step { ove ex1 with evba := 0x091A2, aecr := 0x13, agenda := [.arith (addBoth none)] })
    (fun t => (t.pc, t.aesr, t.esr0, t.sr, t.epcr0)) =
      some (0x12344B00, 0x03, 0x9C01, 0x8C01, 0x2000) := by decide

/-- M7: a condition of another class is not enabled by OVADDE; M8: the record is a sticky OR. -/
theorem test_M7_M8 :
    after (arithStep { addBoth none with event := divSignedEvent 0#32 } { ove ex1 with aecr := 0x6F })
      (fun t => (t.aesr, t.pc)) = some (0, 0x2004) ∧
    after (arithStep { addBoth none with event := { cls := .addSub, cy := false, ov := true, dbz := false } }
      { ove ex1 with aecr := 0x02, aesr := 0x01 }) (fun t => (t.aesr, t.pc)) = some (0x03, 0xB00) := by decide

/-- R142: the carry-in alone can carry out of the top bit, and can overflow the signed sum (log 39); a
signed multiply has OVMULE alone, an unsigned one CYMULE alone. -/
theorem test_conditions : conditions (addEvent 0xFFFFFFFF#32 0#32 true) = 0x01 ∧
    conditions (addEvent 0x7FFFFFFF#32 0#32 true) = 0x02 ∧
    conditions (mulEvent 0x10000#32 0x10000#32 false true) = 0x08 ∧
    conditions (mulEvent 0x10000#32 0x10000#32 true false) = 0x04 ∧
    conditions (macEvent 0xFFFFFFFF#32 1 1 true false) = 0x20 := by decide

/-- M14, M15. -/
theorem test_M14 : refusal (arithStep (addBoth none) (ove ex2)) = some .oveWithoutAecr ∧
    after (arithStep (addBoth none) ex2) (fun t => t.pc) = some 0x2004 := by decide

/-! ### From reset -/

/-- `l.mfspr r3,r0,0` as the first instruction after reset. -/
theorem test_first_instruction : after (step (State.reset.withFetchWord 32 0xB4600000))
    (fun t => (t.readGpr 3, t.pc)) = some (0x12000048, 0x104) := by decide

/-- `l.mtspr r0,r3,12` as the first instruction after reset. -/
theorem test_first_write : after (step ((State.reset.writeGpr 3 0x13).withFetchWord 32 0xC000180C))
    (fun t => (t.aecr, t.pc)) = some (0x13, 0x104) := by decide

/-- Nothing is placed in memory at reset. -/
theorem test_reset_fetch : faulted (step State.reset) = some .fetchUnwritten := by decide

/-! ### Witnesses: for each statement with hypotheses, a state and operands that meet them -/

theorem exists_of_after {α : Type} {o : Result} {f : State → α} {v : α} (h : after o f = some v) :
    ∃ t, o = .next t ∧ f t = v := by
  unfold after at h
  split at h
  · rename_i t
    exact ⟨t, rfl, by simpa using h⟩
  · cases h

/-- EX1 with the executing policies, EX2 with the same. -/
def exec1 : State := ex1p executingPolicies
def exec2 : State := start (exampleTwo executingPolicies)

/-- The state with one step to come. -/
def next1 (i : Input) (s : State) : State := { s with agenda := [i] }

/-- An addition that carries, into r3. -/
def carry : ArithStep :=
  { event := addEvent 0x80000000#32 0x80000000#32 false
    computesCy := true, computesOv := true, dest := some 3, result := 0 }

theorem witness_EncodeOfDecode : decode 0xC1401805 = .insn (.mtspr 0 3 0x5005) := by decide

theorem witness_OpcodeMapHasTwoRows : configDefect ex1.cfg = none ∧
    (0xB0000000#32).extractLsb' 26 6 ≠ 0x2D#6 ∧ (0xB0000000#32).extractLsb' 26 6 ≠ 0x30#6 ∧
    (0xC4000000#32).extractLsb' 26 6 ≠ 0x2D#6 ∧ (0xC4000000#32).extractLsb' 26 6 ≠ 0x30#6 := by decide

theorem witness_ImmediateAssembly : decode 0xB7FFFFFF = .insn (.mfspr 31 31 0xFFFF) ∧
    decode 0xC3FFFFFF = .insn (.mtspr 31 31 0xFFFF) := by decide

theorem witness_StepRunsDecodedInstruction :
    let s := ex1.placeWord 0xB4600000
    configDefect s.cfg = none ∧ wordAligned s.pc = true ∧
    Memory.read s.mem s.pc.toNat = some 0xB4 ∧ Memory.read s.mem (s.pc + 1).toNat = some 0x60 ∧
    Memory.read s.mem (s.pc + 2).toNat = some 0 ∧ Memory.read s.mem (s.pc + 3).toNat = some 0 ∧
    decodeBytes s.cfg.byteOrder [0xB4, 0x60, 0, 0] = .insn (.mfspr 3 0 0) ∧
    (Instr.mfspr 3 0 0).wellFormed s.cfg = true ∧ s.agenda = [] ∧
    (next1 .instruction s).agenda = [.instruction] := by decide

theorem witness_PlacedInstructionRuns : configDefect ex1.cfg = none ∧ wordAligned ex1.pc = true ∧
    wordAligned { ex1 with pc := 0xFFFFFFFC }.pc = true := by decide

theorem witness_FetchThatFindsNoInstruction : configDefect ex1.cfg = none ∧
    ex1.nextInput = .instruction ∧ wordAligned { ex1 with pc := 0x2002 }.pc = false ∧
    wordAligned ex1.pc = true ∧ Memory.read ex1.mem ex1.pc.toNat = none ∧
    ex1.cfg.policies.trapEntry = .family true := by decide

theorem witness_IllFormedConfigIsRefused :
    configDefect (start { exampleOne specPolicies with ngpr := 31 }).cfg = some .ngprInconsistent := by
  decide

theorem witness_NoConfigRegistersLeaveTwo : configDefect (exampleTwo specPolicies) = none ∧
    50 ≤ (exampleTwo specPolicies).vr.cfg.toNat ∧
    configDefect { exampleTwo specPolicies with
      vr := { rev := 1, uvrp := false, cfg := 50, ver := 0x10 } } = none := by decide

theorem witness_ReadImagesAnnouncePresence : ex1.cfg.layout = defaultLayout ∧
    present ex1.cfg .cpucfgr = true ∧ present ex2.cfg .cpucfgr = false := by decide

theorem witness_GeometryBounds :
    let c := { exampleOne specPolicies with
      upr := { (exampleOne specPolicies).upr with dup := true, pcup := true }
      cpucfgr := { (exampleOne specPolicies).cpucfgr with nsgf := 15 }
      dmmucfgr := { ntw := 3, nts := 7, nae := 4, cri := true, pri := true, teiri := true, htr := true }
      dccfgr := { (exampleOne specPolicies).dccfgr with ncw := 5, ncs := 10 }
      iccfgr := { (exampleOne specPolicies).iccfgr with ncw := 0, ncs := 0, bs := false }
      dcfgr := { ndp := 7, wpci := true } }
    configDefect c = none ∧ dtlbWays c = some 4 ∧ itlbWays c = some 1 ∧ dtlbSets c = some 128 ∧
    datbEntries c = some 4 ∧ dcBytes c = some 1048576 ∧ icBytes c = some 16 ∧ debugPairs c = some 8 ∧
    perfCounters c = some 1 ∧ shadowGprFiles c = some 15 ∧ dtlbEntries c = some 512 ∧
    dcWays c = some 32 ∧ dcSets c = some 1024 ∧ dcBlockBytes c = some 32 ∧
    icWays c = some 1 ∧ icSets c = some 1 ∧ icBlockBytes c = some 16 := by decide

theorem witness_DerivedQuantitiesAreExact :
    let c := exampleOne specPolicies
    let e := exampleTwo specPolicies
    present c .cpucfgr = true ∧ c.upr.dmp = true ∧ c.upr.dcp = true ∧ c.upr.dup = false ∧
    dtlbEntries c = some 64 ∧ dcSets c = some 256 ∧ dcBlockBytes c = some 32 ∧ debugPairs c = none ∧
    present e .cpucfgr = false ∧ shadowGprFiles e = none ∧ icBytes e = none := by decide

theorem witness_SprNumbersNameRegisters : sprNumInjective defaultSprNum = true ∧
    regAt defaultSprNum 0 = some .vr ∧ regAt defaultSprNum 28 = some (.isr 7) := by decide

theorem witness_RegistersStandInGroupZero : regAt defaultSprNum 28 = some (.isr 7) ∧
    regAt defaultSprNum 0 = some .vr := by decide

theorem witness_ImagesUnderDefaultLayout : ex1.cfg.layout = defaultLayout := rfl

theorem witness_FieldsStandAtTheirPlaces : layoutFits ex1.cfg.layout = true ∧
    layoutFits { defaultLayout with avr := { maj := 0, min := 8, rev := 16 } } = true := by decide

theorem witness_MfsprReadsPresentRegister :
    Reaches ex1 [3, 0] 0 0 .vr ∧ Reaches ex1 [31, 31] 31 13 .aesr ∧
    Reaches (start (isrConfig specPolicies)) [3, 0] 0 28 (.isr 7) ∧
    Reaches { exec1 with delaySlot := some 0x3000 } [3, 0] 0 11 .evbar ∧
    Reaches (exec1.writeGpr 4 0xFFFF0000) [3, 4] 4 12 .aecr ∧
    ex1.supervisor = true ∧ present ex1.cfg .aesr = true ∧
    present (isrConfig specPolicies) (.isr 7) = true ∧ (3 : RegNo) ≠ 0#5 :=
  ⟨reaches_of_check (by decide), reaches_of_check (by decide), reaches_of_check (by decide),
    reaches_of_check (by decide), reaches_of_check (by decide), by decide, by decide, by decide, by decide⟩

theorem witness_MfsprToRegisterZero : Reaches ex1 [0, 0] 0 0 .vr ∧ ex1.supervisor = true ∧
    present ex1.cfg .vr = true ∧ ex1.cfg.policies.r0 = .refuse ∧
    Reaches exec1 [0, 0] 0 0 .vr ∧ exec1.cfg.policies.r0 = .write ∧
    Reaches (ex1p { specPolicies with r0 := .discard }) [0, 0] 0 0 .vr :=
  ⟨reaches_of_check (by decide), by decide, by decide, by decide, reaches_of_check (by decide),
    by decide, reaches_of_check (by decide)⟩

theorem witness_AbsentRegisterAccess : Reaches ex1 [8, 0] 0 21 (.isr 0) ∧ ex1.supervisor = true ∧
    present ex1.cfg (.isr 0) = false ∧ ex1.cfg.policies.absentSpr = .refuse ∧
    Reaches (ex1p { specPolicies with absentSpr := .readZero }) [8, 0] 0 28 (.isr 7) ∧
    Reaches exec2 [3, 0] 0 9 .vr2 ∧ present exec2.cfg .vr2 = false ∧
    exec2.cfg.policies.absentSpr = .draw ∧ Reaches exec2 [0, 3] 0 12 .aecr ∧
    configDefect ex2.cfg = none ∧ ex2.cfg.upr.up = false :=
  ⟨reaches_of_check (by decide), by decide, by decide, by decide, reaches_of_check (by decide),
    reaches_of_check (by decide), by decide, by decide, reaches_of_check (by decide), by decide, by decide⟩

theorem witness_AbsentReadToRegisterZero : Reaches exec2 [0, 0] 0 9 .vr2 ∧ exec2.supervisor = true ∧
    present exec2.cfg .vr2 = false ∧ exec2.cfg.policies.absentSpr ≠ .refuse ∧
    exec2.cfg.policies.r0 ≠ .refuse ∧
    Reaches (ex1p { executingPolicies with r0 := .refuse }) [0, 0] 0 21 (.isr 0) ∧
    Reaches (ex1p { executingPolicies with r0 := .discard }) [0, 0] 0 21 (.isr 0) :=
  ⟨reaches_of_check (by decide), by decide, by decide, by decide, by decide,
    reaches_of_check (by decide), reaches_of_check (by decide)⟩

theorem witness_ImplementationSpecificRegisters :
    let s := start (isrConfig specPolicies)
    Reaches s [3, 0] 0 22 (.isr 1) ∧ Reaches s [3, 0] 0 21 (.isr 0) ∧ Reaches s [0, 3] 0 28 (.isr 7) ∧
    s.supervisor = true ∧ present s.cfg (.isr 1) = true ∧
    s.cfg.isrValue[1] = some 0xABCD ∧ s.cfg.isrValue[0] = none :=
  ⟨reaches_of_check (by decide), reaches_of_check (by decide), reaches_of_check (by decide),
    by decide, by decide, by decide, by decide⟩

theorem witness_MtsprWrites_Evbar_Aecr_Aesr : ex1.cfg.layout = defaultLayout ∧ Reaches ex1 [0, 3] 0 11 .evbar ∧
    Reaches ex1 [0, 3] 0 12 .aecr ∧ Reaches ex1 [3, 3] 3 13 .aesr ∧ ex1.supervisor = true ∧
    present ex1.cfg .evbar = true ∧ present ex1.cfg .aecr = true ∧ present ex1.cfg .aesr = true :=
  ⟨rfl, reaches_of_check (by decide), reaches_of_check (by decide), reaches_of_check (by decide),
    by decide, by decide, by decide, by decide⟩

theorem witness_MtsprToReadOnlyRegister : Reaches ex1 [0, 3] 0 0 .vr ∧ Reaches ex1 [0, 3] 0 10 .avr ∧
    ex1.supervisor = true ∧ present ex1.cfg .avr = true ∧ readOnly .avr = true ∧
    ex1.cfg.policies.roWrite = .ignore ∧
    Reaches (ex1p { specPolicies with roWrite := .refuse }) [0, 3] 0 0 .vr :=
  ⟨reaches_of_check (by decide), reaches_of_check (by decide), by decide, by decide, by decide,
    by decide, reaches_of_check (by decide)⟩

theorem witness_ReadAfterWrite_evbar : ∃ t, exec (.mtspr 0 3 11) ex1 = .next t ∧
    reaches t [4, 0] 0 11 .evbar = true := exists_of_after (by decide)
theorem witness_ReadAfterWrite_aecr : ∃ t, exec (.mtspr 0 3 12) ex1 = .next t ∧
    reaches t [4, 0] 0 12 .aecr = true := exists_of_after (by decide)
theorem witness_ReadAfterWrite_aesr : ∃ t, exec (.mtspr 0 3 13) ex1 = .next t ∧
    reaches t [4, 0] 0 13 .aesr = true := exists_of_after (by decide)
theorem witness_ReadAfterWrite_readOnly : ∃ t, exec (.mtspr 0 3 0) ex1 = .next t ∧
    reaches t [4, 0] 0 0 .vr = true := exists_of_after (by decide)

theorem witness_SprAccessFrame : ex1.supervisor = true ∧
    after (exec (.mfspr 3 0 0) ex1) (fun t => t.pc) = some 0x2004 ∧
    after (exec (.mtspr 0 3 12) ex1) (fun t => t.pc) = some 0x2004 := by decide

theorem witness_UserModeOutcome :
    Reaches (user ex1) (Instr.mfspr 3 0 0).registers 0 0 .vr ∧
    Reaches (user exec1) (Instr.mtspr 0 3 12).registers 0 12 .aecr ∧
    Reaches (user (ex1p { specPolicies with userSpr := .refuse })) (Instr.mfspr 3 0 0).registers 0 0 .vr ∧
    (user ex1).supervisor = false ∧ ex1.cfg.policies.userSpr = .fault ∧
    exec1.cfg.policies.userSpr = .illegalInstruction :=
  ⟨reaches_of_check (by decide), reaches_of_check (by decide), reaches_of_check (by decide),
    by decide, by decide, by decide⟩

theorem witness_UserModeLearnsNothing : (user exec1).supervisor = false ∧
    after (exec (.mfspr 3 0 13) (user exec1)) (fun t => t.pc) = some 0x700 := by decide

theorem witness_FailingCheckNamesTheStop : configDefect smallFile = none ∧
    (Instr.mfspr 16 0 0).wellFormed smallFile = false ∧
    (Instr.mfspr 15 4 14).wellFormed smallFile = true ∧
    ((start smallFile).writeGpr 4 0x10000).sprEa 4 0 = 0x10000 ∧
    smallFile.policies.highAddr = .refuse ∧ (start smallFile).delaySlot = none ∧
    ((start smallFile).writeGpr 4 0xFFFF).sprEa 4 0 = 0xFFFF ∧
    regAt smallFile.sprNum 0xFFFF = none ∧ regAt smallFile.sprNum 14 = none ∧
    refusal (exec (.mfspr 15 4 0) { (start smallFile).writeGpr 4 0x10000 with delaySlot := some 0x3000 }) =
      some .inDelaySlot ∧
    refusal (exec (.mtspr 0 16 17) { start smallFile with delaySlot := some 0x3000 }) = some .noSuchGpr ∧
    refusal (exec (.mtspr 0 3 17) (user { ex1 with delaySlot := some 0x3000 })) = some .inDelaySlot ∧
    refusal (exec (.mtspr 0 3 17) { exec1 with delaySlot := some 0x3000 }) = some .sprOutsideSpec := by decide

theorem witness_SrIsNotAccessible : configDefect ex1.cfg = none ∧
    (Instr.mfspr 3 0 17).wellFormed ex1.cfg = true ∧ ex1.delaySlot = none ∧
    ex1.sprEa 0 17 = ex1.cfg.sprNum.sr.setWidth 32 := by decide

theorem witness_TruncatedAddressReachesRegister :
    let s := exec1.writeGpr 4 0x10000
    configDefect s.cfg = none ∧ hasGpr s.cfg 3 = true ∧ hasGpr s.cfg 4 = true ∧ s.delaySlot = none ∧
    s.cfg.policies.highAddr = .truncate ∧ (s.sprEa 4 5).extractLsb' 16 16 ≠ 0#16 ∧
    (s.sprEa 4 5).extractLsb' 0 16 = sprAddrOf s.cfg.sprNum .dccfgr ∧ s.supervisor = true ∧
    present s.cfg .dccfgr = true ∧ (3 : RegNo) ≠ 0#5 := by decide

/-! Steps of every kind that answer a next state, for the statements over every step:
ConstantsNeverChange, NoStepWritesMemory, OnlyWritersOfTheBlock, StepKeepsInv. -/

theorem witness_step_instruction : ∃ t, step (ex1.placeWord 0xC000180B) = .next t ∧ t.pc = 0x2004 :=
  exists_of_after (by decide)
theorem witness_step_writes_evba : ∃ t, step ((ex1.writeGpr 3 0x12345678).placeWord 0xC000180B) =
    .next t ∧ t.evba = 0x091A2 := exists_of_after (by decide)
theorem witness_step_writes_aecr : ∃ t, step ((ex1.writeGpr 3 0x13).placeWord 0xC000180C) =
    .next t ∧ t.aecr = 0x13 := exists_of_after (by decide)
theorem witness_step_resets_evba : ∃ t, step (next1 .reset { ex1 with evba := 1 }) =
    .next t ∧ t.evba = 0 := exists_of_after (by decide)
theorem witness_step_records : ∃ t, step (next1 (.arith carry) { ove ex1 with aecr := 1 }) =
    .next t ∧ (t.aesr, t.pc) = (1, 0xB00) := exists_of_after (by decide)

theorem witness_HardwareOnlySetsAesr :
    let s := next1 (.arith carry) { ove ex1 with aecr := 1, aesr := 2 }
    s.nextInput ≠ .reset ∧ s.nextInstr = none ∧ s.aesr.getLsbD 1 = true ∧
    after (step s) (fun t => t.aesr) = some 3 := by decide

theorem witness_ModeChanges_up :
    let s := { user exec1 with mem := (exec1.placeWord 0xB4600000).mem }
    s.supervisor = false ∧ after (step s) (fun t => (t.supervisor, t.pc)) = some (true, 0x700) := by decide

theorem witness_ModeChanges_down :
    let s := next1 .exceptionReturn { ex1 with esr0 := 0x8000 }
    s.supervisor = true ∧ after (step s) (fun t => t.supervisor) = some false := by decide

theorem witness_StepKeepsInv : State.Inv ex1 ∧ State.Inv { start noSlots with delaySlot := none } ∧
    ∃ t, step (next1 (.takenJump 0x3000) ex1) = .next t ∧ t.delaySlot = some 0x3000 :=
  ⟨⟨by decide, by decide, by decide, by decide⟩, ⟨by decide, by decide, by decide, by decide⟩,
    exists_of_after (by decide)⟩

/-! The arithmetic event. -/

theorem witness_NoEnabledConditionRaisesNothing_oveClear :
    let s := next1 (.arith carry) ex1
    configDefect s.cfg = none ∧ s.agenda = [.arith carry] ∧ present s.cfg .aecr = true ∧
    hasGpr s.cfg 3 = true ∧ carry.dest = some 3 ∧ s.srFlag srOVE = false := by decide

theorem witness_NoEnabledConditionRaisesNothing_notEnabled :
    let s := next1 (.arith carry) { ove ex1 with aecr := 0x7C }
    configDefect s.cfg = none ∧ s.agenda = [.arith carry] ∧ present s.cfg .aecr = true ∧
    s.srFlag srOVE = true ∧ conditions carry.event &&& s.aecr = 0#7 := by decide

theorem witness_EnabledConditionRaisesAndIsRecorded :
    let s := next1 (.arith carry) { ove ex1 with aecr := 0x01 }
    configDefect s.cfg = none ∧ s.agenda = [.arith carry] ∧ present s.cfg .aecr = true ∧
    hasGpr s.cfg 3 = true ∧ s.srFlag srOVE = true ∧ conditions carry.event &&& s.aecr ≠ 0#7 ∧
    s.cfg.policies.trapEntry = .family true := by decide

theorem witness_ArithmeticWithoutAecr :
    let s := next1 (.arith carry) (ove ex2)
    let p := next1 (.arith carry) (ove (start (exampleTwo { specPolicies with noAecrMask := some 0x5A })))
    let q := next1 (.arith carry) (ove (start (exampleTwo { specPolicies with noAecrMask := some 0x40 })))
    configDefect s.cfg = none ∧ s.agenda = [.arith carry] ∧ present s.cfg .aecr = false ∧
    hasGpr s.cfg 3 = true ∧ (next1 (.arith carry) ex2).srFlag srOVE = false ∧ s.srFlag srOVE = true ∧
    s.cfg.policies.noAecrMask = none ∧ configDefect p.cfg = none ∧
    conditions carry.event &&& 0x5A#7 ≠ 0#7 ∧ configDefect q.cfg = none ∧
    conditions carry.event &&& 0x40#7 = 0#7 := by decide

/-- A destination of register 0 under each `R0_POLICY`, OVE clear and raising (log 13). -/
theorem witness_ArithmeticDestination_zero :
    let z : ArithStep := { carry with dest := some 0, result := 5 }
    let go (p : Policies) (f : State → State) := step (next1 (.arith z) (f (ex1p p)))
    let raising (s : State) : State := { ove s with aecr := 1 }
    after (go { specPolicies with r0 := .write } id) (fun t => t.readGpr 0) = some 5 ∧
    after (go { specPolicies with r0 := .discard } id) (fun t => (t.readGpr 0, t.pc)) = some (0, 0x2004) ∧
    after (go { specPolicies with r0 := .write, resultOnExc := .written } raising)
      (fun t => (t.readGpr 0, t.pc)) = some (5, 0xB00) ∧
    after (go { specPolicies with r0 := .discard, resultOnExc := .written } raising)
      (fun t => (t.readGpr 0, t.aesr)) = some (0, 1) ∧
    after (go { specPolicies with r0 := .refuse, resultOnExc := .unwritten } raising)
      (fun t => (t.aesr, t.pc)) = some (1, 0xB00) := by decide

theorem witness_ArithmeticDestinationRefusals :
    let z : ArithStep := { carry with dest := some 0 }
    let s := next1 (.arith z) ex1
    let h := next1 (.arith z) { ove ex1 with aecr := 1 }
    configDefect s.cfg = none ∧ s.agenda = [.arith z] ∧ hasGpr s.cfg 0 = true ∧ s.cfg.policies.r0 = .refuse ∧
    s.srFlag srOVE = false ∧ h.srFlag srOVE = true ∧ h.arithHit z.event = some 1 ∧
    { h with aecr := 0 }.arithHit z.event = some 0 ∧ (ove ex2).arithHit z.event = none ∧
    s.cfg.policies.resultOnExc = .unknown ∧ refusal (step h) = some .writeToR0 ∧
    refusal (step (next1 (.arith z) (ove ex2))) = some .oveWithoutAecr ∧
    configDefect smallFile = none ∧ hasGpr smallFile 16 = false ∧
    refusal (step (next1 (.arith { carry with dest := some 16 }) (start smallFile))) = some .noSuchGpr := by
  decide

/-- Two arithmetic exceptions one after the other, where entry leaves OVE. -/
theorem witness_AesrAccumulatesCauses :
    let mul : ArithStep := { carry with event := mulEvent 0x10000#32 0x10000#32 true false }
    let s := { ove (ex1p { specPolicies with trapEntry := .family false }) with
      aecr := 0x05, agenda := [.arith carry, .arith mul] }
    present s.cfg .aecr = true ∧ s.srFlag srOVE = true ∧ conditions carry.event &&& s.aecr = 1#7 ∧
    after (step s) (fun t => (t.aesr, t.srFlag srOVE, conditions mul.event &&& t.aecr)) =
      some (1, true, 4) ∧
    ((match step s with | .next t => after (step t) (fun u => u.aesr) | _ => none) = some 5) := by decide

/-! Vectors, entry, return, jumps, reset. -/

theorem witness_VectorAddressIsBasePlusOffset : ex1.cfg.layout = defaultLayout ∧ ex1.cfg.ephOffset = defaultEphOffset ∧
    ex1.cfg.vectorOffset = defaultVectorOffsets ∧
    ({ ex1 with evba := 0x091A2, sr := 0xC001 }.raise .range none).pc = 0xF2344B00 := by decide

theorem witness_WriteIsVisibleToNextStep : ex1.cfg.layout = defaultLayout ∧ ex1.supervisor = true ∧
    present ex1.cfg .evbar = true ∧ present ex1.cfg .aecr = true ∧
    after (exec (.mtspr 0 3 11) (ex1.writeGpr 3 0x12345678)) (fun t => t.vectorAddress .range) =
      some 0x12344B00 ∧
    after (exec (.mtspr 0 3 12) (ex1.writeGpr 3 0x13)) (fun t => t.arithHit carry.event) =
      some (some 3) := by decide

theorem witness_FamilyEntry_and_ReturnUndoesEntry : ex1.cfg.policies.trapEntry = .family true ∧ ex1.srFlag srFO = true ∧
    (ex1p { specPolicies with trapEntry := .family false }).cfg.policies.trapEntry = .family false ∧
    { ex1 with delaySlot := some 0x3000 }.delaySlot ≠ none ∧ ex1.delaySlot = none := by decide

theorem witness_ExceptionReturnStep :
    let s := next1 .exceptionReturn ex1
    configDefect s.cfg = none ∧ s.agenda = [.exceptionReturn] ∧ s.delaySlot = none ∧
    s.supervisor = true ∧ (user s).supervisor = false ∧ (user s).agenda = [.exceptionReturn] ∧
    refusal (step { s with delaySlot := some 0x3000 }) = some .transferInDelaySlot ∧
    refusal (step (user { s with delaySlot := some 0x3000 })) = some .transferInDelaySlot := by decide

theorem witness_JumpSlotTarget :
    let s := next1 (.takenJump 0x3000) exec1
    let n := next1 (.takenJump 0x3000) (start noSlots)
    configDefect s.cfg = none ∧ s.agenda = [.takenJump 0x3000] ∧ s.delaySlot = none ∧
    s.cfg.cpucfgr.nd = false ∧ configDefect n.cfg = none ∧ n.cfg.cpucfgr.nd = true ∧
    (match step s with
      | .next t => after (exec (.mfspr 3 0 0) t) (fun u => (u.readGpr 3, u.pc))
      | _ => none) = some (0x12000048, 0x3000) ∧
    refusal (step { s with delaySlot := some 0x4000 }) = some .transferInDelaySlot := by decide

theorem witness_ResetStep_and_ResetLoadsEvbaReset :
    let s := next1 .reset ex1
    let e := next1 .reset ex2
    configDefect s.cfg = none ∧ s.agenda = [.reset] ∧ configDefect e.cfg = none ∧
    present e.cfg .evbar = false ∧ after (step e) (fun t => t.srFlag srEPH) = some false := by decide

end Sys2Proof.Tests
end

section
/-! PROOFS. Every step keeps the invariant (O41) and the state after reset meets it (O42); an ill-formed
implementation is refused as a whole (O9). -/

namespace Sys2Proof.Machine

/-! ### What a step does to SR.FO and to the delay slot (R14, R190) -/

/-- A store to a present SPR leaves SR, and no instruction stands in a delay slot after it. -/
theorem sprStore_next_control {s t : State} {r : Spr} {v : Word} (h : sprStore s r v = .next t) :
    t.sr = s.sr ∧ t.delaySlot = none := by
  rcases sprStore_next h with ⟨-, rfl⟩ | ⟨-, rfl⟩ | ⟨-, rfl⟩ | ⟨-, -, rfl⟩ <;> exact ⟨rfl, rfl⟩

/-- The SR of `step_cases`, the one before the step or one with an arithmetic instruction's flags, has FO
at 1 where it was. -/
theorem fo_of_kept_or_withArithFlags {s : State} {x : Word} (hfo : s.srFlag srFO = true)
    (hx : x = s.sr ∨ ∃ y, x = (s.withArithFlags y).sr) : x.getLsbD srFO = true := by
  rcases hx with rfl | ⟨y, rfl⟩
  · exact hfo
  · exact (State.withArithFlags_mode s y).2.2

/-- FO stays 1: every write of SR goes through `fixSr` (R14). -/
theorem step_keeps_fo {s t : State} (hfo : s.srFlag srFO = true) (h : step s = .next t) :
    t.srFlag srFO = true := by
  obtain ⟨-, -, -, hcase⟩ := step_cases h
  rcases hcase with ⟨-, rfl⟩ | ⟨e, ea, x, m, g, n, rfl, -, -⟩ | ⟨-, -, rfl⟩ |
    ⟨target, -, ⟨-, rfl⟩ | ⟨-, rfl⟩⟩ | ⟨x, g, n, rfl, hx⟩ | ⟨r, v, -, hstore⟩
  · -- reset
    simp [State.srFlag]
  · -- exception
    exact State.raise_fo _ e ea
  · -- return from exception
    exact fixSr_fo s.esr0
  · -- taken jump, no delay slots
    exact hfo
  · -- taken jump into a delay slot
    exact hfo
  · -- control advances
    exact fo_of_kept_or_withArithFlags hfo hx
  · -- store to an SPR
    obtain ⟨hsr, -⟩ := sprStore_next_control hstore
    simpa [State.srFlag, hsr] using hfo

/-- Only a taken jump on an implementation with delay slots leaves an instruction standing in one
(R190). -/
theorem step_slot_empty_or_nd {s t : State} (h : step s = .next t) :
    t.delaySlot = none ∨ s.cfg.cpucfgr.nd = false := by
  obtain ⟨-, -, -, hcase⟩ := step_cases h
  rcases hcase with ⟨-, rfl⟩ | ⟨e, ea, x, m, g, n, rfl, -, -⟩ | ⟨-, -, rfl⟩ |
    ⟨target, -, ⟨-, rfl⟩ | ⟨hnd, rfl⟩⟩ | ⟨x, g, n, rfl, -⟩ | ⟨r, v, -, hstore⟩
  · -- reset
    exact .inl (State.applyReset_delaySlot _)
  · -- exception
    exact .inl (State.raise_delaySlot _ e ea)
  · -- return from exception
    exact .inl rfl
  · -- taken jump, no delay slots
    exact .inl rfl
  · -- taken jump into a delay slot
    exact .inr hnd
  · -- control advances
    exact .inl rfl
  · -- store to an SPR
    exact .inl (sprStore_next_control hstore).2

/-! ### The invariant (O41, O42) -/

/-- Settles O41: a step changes neither the implementation nor memory, and `step_keeps_fo` and
`step_slot_empty_or_nd` say what it does to SR.FO and to the delay slot. -/
theorem stepKeepsInv : Obligations.StepKeepsInv := by
  intro s t hinv h
  obtain ⟨hconfig, hmemory, hfo, -⟩ := hinv
  obtain ⟨-, hcfg, hmem, -⟩ := step_cases h
  exact {
    config := by rw [hcfg]; exact hconfig
    memory := by rw [hmem]; exact hmemory
    fixedOne := step_keeps_fo hfo h
    noSlot := fun hnd => by
      rcases step_slot_empty_or_nd h with hslot | hslots
      · exact hslot
      · rw [hcfg, hslots] at hnd
        cases hnd }

/-- The state after reset of a well-formed implementation, any one, meets the invariant. -/
theorem State.resetFor_inv {c : Config} (hc : configDefect c = none) : (State.resetFor c).Inv where
  config := hc
  memory := Memory.wf_nil
  fixedOne := fixSr_fo c.srReset
  noSlot := fun _ => rfl

/-- Settles O42: the implementation that `State.reset` takes passes every check. -/
theorem resetMeetsInv : Obligations.ResetMeetsInv :=
  have hc : configDefect referenceConfig = none := by decide
  State.resetFor_inv hc

/-! ### An ill-formed implementation (O9) -/

section
variable {s : State} {why : ConfigDefect}

/-- The step asks for the implementation's checks first. -/
theorem step_of_configDefect (h : configDefect s.cfg = some why) :
    step s = .refused (.illFormedConfig why) := by
  simp [step, h]

/-- The gate of both instructions asks for the implementation's checks first (R127). -/
theorem sprGate_of_configDefect (h : configDefect s.cfg = some why) (used : List RegNo) (a : RegNo)
    (k : SprAddr) : sprGate s used a k = .done (.refused (.illFormedConfig why)) := by
  simp [sprGate, h]

/-- Every instruction goes through the gate, which refuses it. -/
theorem exec_of_configDefect (h : configDefect s.cfg = some why) (i : Instr) :
    exec i s = .refused (.illFormedConfig why) := by
  cases i with
  | mfspr d a k => simp [exec, execMfspr, sprGate_of_configDefect h]
  | mtspr a b k => simp [exec, execMtspr, sprGate_of_configDefect h]

end

/-- Settles O9: the step and, through the gate, both instructions ask for the checks before anything else
(D22). -/
theorem illFormedConfigIsRefused : Obligations.IllFormedConfigIsRefused :=
  fun _ _ i h => ⟨step_of_configDefect h, exec_of_configDefect h i⟩

end Sys2Proof.Machine
end

section
/-! PROOFS. What AESR holds decides nothing (O39): two runs of one step from states that differ in AESR
alone. -/

namespace Sys2Proof.Machine

/-! ### Two outcomes alike but for AESR -/

/-- `o` with `f` applied to its next state, where it has one. -/
def mapNext (f : State → State) : Result → Result
  | .next t => .next (f t)
  | .fault q => .fault q
  | .refused q => .refused q

/-- Two outcomes of one step alike but for AESR, and for the general registers where `p`. -/
inductive AlikeButAesr (p : Prop) : Result → Result → Prop
  | next (t : State) (m : BitVec 7) (g : Vector Word 32) (hg : g = t.gpr ∨ p) :
      AlikeButAesr p (.next t) (.next { t with aesr := m, gpr := g })
  | fault (f : Fault) : AlikeButAesr p (.fault f) (.fault f)
  | refused (q : Refusal) : AlikeButAesr p (.refused q) (.refused q)

theorem AlikeButAesr.refl {p : Prop} (o : Result) : AlikeButAesr p o o := by
  cases o with
  | next t => exact .next t t.aesr t.gpr (.inl rfl)
  | fault f => exact .fault f
  | refused q => exact .refused q

theorem AlikeButAesr.mono {p q : Prop} (hpq : p → q) {o o' : Result} (h : AlikeButAesr p o o') :
    AlikeButAesr q o o' := by
  cases h with
  | next t m g hg => exact .next t m g (hg.imp_right hpq)
  | fault f => exact .fault f
  | refused r => exact .refused r

theorem AlikeButAesr.of_mapNext {p : Prop} (o : Result) (m : BitVec 7) :
    AlikeButAesr p o (mapNext (·.withAesr m) o) := by
  cases o with
  | next t => exact .next t m t.gpr (.inl rfl)
  | fault f => exact .fault f
  | refused q => exact .refused q

section
variable (s : State) (m : BitVec 7)

/-! ### AESR and the shared operations -/

theorem State.withAesr_raise (e : ExceptionKind) (ea : Option Word) :
    (s.withAesr m).raise e ea = (s.raise e ea).withAesr m := by
  cases h : s.cfg.policies.trapEntry with
  | family co => rw [State.raise_family s e ea h, State.raise_family (s.withAesr m) e ea h]; rfl
  | leftOpen => rw [State.raise_leftOpen s e ea h, State.raise_leftOpen (s.withAesr m) e ea h]; rfl

theorem State.withAesr_writeDest (d : RegNo) (v : Word) :
    (s.withAesr m).writeDest d v = (s.writeDest d v).map (·.withAesr m) := by
  by_cases hd : d = 0#5
  · cases hp : s.cfg.policies.r0 <;> simp [State.writeDest, hd, hp]; rfl
  · simp only [State.writeDest_of_ne _ _ hd]; rfl

theorem State.withAesr_writeResult (dest : Option RegNo) (v : Word) :
    (s.withAesr m).writeResult dest v = (s.writeResult dest v).map (·.withAesr m) := by
  cases dest with
  | none => rfl
  | some d => exact State.withAesr_writeDest s m d v

theorem State.withAesr_resultOnExc (x : ArithStep) :
    (s.withAesr m).resultOnExc x = (s.resultOnExc x).map (·.withAesr m) := by
  unfold State.resultOnExc
  cases hp : s.cfg.policies.resultOnExc with
  | unknown =>
    simp only [State.withAesr_cfg, hp]
    exact State.withAesr_writeResult (s.withDraws (s.draws + 1)) m _ _
  | written =>
    simp only [State.withAesr_cfg, hp]
    exact State.withAesr_writeResult s m _ _
  | unwritten => simp [hp]

/-- The record ORs into what AESR holds, and leaves no other trace of it. -/
theorem State.withAesr_recordHit (hit : BitVec 7) :
    ∃ m', (s.withAesr m).recordHit hit = (s.recordHit hit).withAesr m' := by
  rcases State.recordHit_cases s hit with ⟨hp, e⟩ | ⟨hp, e⟩
  · exact ⟨m ||| hit, by rw [e]; simp [State.recordHit, hp]; rfl⟩
  · exact ⟨m, by rw [e]; simp [State.recordHit, hp]⟩

/-! ### AESR and the two SPR access instructions -/

theorem userSprOutcome_withAesr :
    userSprOutcome (s.withAesr m) = mapNext (·.withAesr m) (userSprOutcome s) := by
  unfold userSprOutcome
  cases hp : s.cfg.policies.userSpr <;> simp [hp, mapNext, State.withAesr_raise]

/-- What the gate answers, with `f` applied to a next state. -/
def Gate.mapNext (f : State → State) : Gate → Gate
  | .pass r => .pass r
  | .done o => .done (Machine.mapNext f o)

/-- No check of R127 reads AESR. -/
theorem sprGate_withAesr (used : List RegNo) (a : RegNo) (k : SprAddr) :
    sprGate (s.withAesr m) used a k = (sprGate s used a k).mapNext (·.withAesr m) := by
  have hea : (s.withAesr m).sprEa a k = s.sprEa a k := rfl
  have hnamed : (s.withAesr m).sprNamed a k = s.sprNamed a k := rfl
  have hmode : (s.withAesr m).supervisor = s.supervisor := rfl
  simp only [sprGate, State.withAesr_cfg, State.withAesr_delaySlot, hea, hnamed, hmode,
    userSprOutcome_withAesr]
  repeat' split
  all_goals rfl

/-- A read is refused or not whatever AESR holds, and only a read of AESR gives another value. -/
theorem sprRead_withAesr (r : Spr) :
    (sprRead s r = none ∧ sprRead (s.withAesr m) r = none) ∨
      ∃ v v' t, sprRead s r = some (v, t) ∧ sprRead (s.withAesr m) r = some (v', t.withAesr m) ∧
        (v' = v ∨ r = .aesr) := by
  have himage : (s.withAesr m).image r = s.image r ∨ r = .aesr := by
    cases r <;> first | exact .inl rfl | exact .inr rfl
  have hdraws : (s.withAesr m).readDraws r = s.readDraws r := by cases r <;> rfl
  cases hp : present s.cfg r with
  | true =>
    refine .inr ⟨_, _, _, by simp only [sprRead, hp, if_true]; rfl, ?_, himage⟩
    simp only [sprRead, State.withAesr_cfg, hp, hdraws, if_true]
    split <;> rfl
  | false =>
    cases ha : s.cfg.policies.absentSpr with
    | refuse => exact .inl (by simp [sprRead, hp, ha])
    | readZero => exact .inr ⟨0, 0, s, by simp [sprRead, hp, ha]⟩
    | draw =>
      refine .inr ⟨Config.draw s.draws, Config.draw s.draws, s.withDraws (s.draws + 1), ?_⟩
      simp [sprRead, hp, ha]
      rfl

/-- Whether a destination takes a value does not depend on the value. -/
theorem State.writeDest_two_values (d : RegNo) (v v' : Word) :
    (s.writeDest d v = none ∧ s.writeDest d v' = none) ∨
      ∃ g g', s.writeDest d v = some { s with gpr := g } ∧ s.writeDest d v' = some { s with gpr := g' } := by
  by_cases hd : d = 0#5
  · cases hp : s.cfg.policies.r0 with
    | refuse => exact .inl (by simp [State.writeDest, hd, hp])
    | write => exact .inr ⟨_, _, by simp only [State.writeDest, hd, hp, if_true]; exact ⟨rfl, rfl⟩⟩
    | discard => exact .inr ⟨s.gpr, s.gpr, by simp [State.writeDest, hd, hp]⟩
  · exact .inr ⟨_, _, State.writeDest_of_ne s v hd, State.writeDest_of_ne s v' hd⟩

theorem execMfspr_alikeButAesr (d a : RegNo) (k : SprAddr) :
    AlikeButAesr (s.sprNamed a k = some .aesr) (execMfspr d a k s) (execMfspr d a k (s.withAesr m)) := by
  unfold execMfspr
  rw [sprGate_withAesr]
  cases hgate : sprGate s [d, a] a k with
  | done o => exact .of_mapNext o m
  | pass r =>
    have hnamed : s.sprNamed a k = some r := (sprGate_pass_iff.mp hgate).1.named
    simp only [Gate.mapNext]
    rcases sprRead_withAesr s m r with ⟨h, h'⟩ | ⟨v, v', t, h, h', hv⟩
    · simp only [h, h']
      exact .refl _
    · simp only [h, h', State.withAesr_writeDest]
      rcases hv with rfl | rfl
      · cases t.writeDest d v' with
        | none => exact .refl _
        | some u => exact .of_mapNext (.next u.advance) m
      · rcases t.writeDest_two_values d v v' with ⟨hw, hw'⟩ | ⟨g, g', hw, hw'⟩
        · simp only [hw, hw']
          exact .refl _
        · simp only [hw, hw']
          exact .next _ m g' (.inr hnamed)

theorem sprStore_withAesr {r : Spr} (hr : r ≠ .aesr) (v : Word) :
    sprStore (s.withAesr m) r v = mapNext (·.withAesr m) (sprStore s r v) := by
  cases r with
  | aesr => exact absurd rfl hr
  | evbar | aecr | isr i => rfl
  | _ =>
    simp only [sprStore, State.withAesr_cfg]
    cases s.cfg.policies.roWrite <;> rfl

theorem sprStoreAbsent_withAesr :
    sprStoreAbsent (s.withAesr m) = mapNext (·.withAesr m) (sprStoreAbsent s) := by
  simp only [sprStoreAbsent, State.withAesr_cfg]
  cases s.cfg.policies.absentSpr <;> rfl

/-- A store to AESR covers what it held; every other store keeps it. -/
theorem execMtspr_alikeButAesr {p : Prop} (a b : RegNo) (k : SprAddr) :
    AlikeButAesr p (execMtspr a b k s) (execMtspr a b k (s.withAesr m)) := by
  unfold execMtspr
  rw [sprGate_withAesr]
  cases sprGate s [a, b] a k with
  | done o => exact .of_mapNext o m
  | pass r =>
    simp only [Gate.mapNext, State.withAesr_cfg, State.withAesr_readGpr, sprStoreAbsent_withAesr]
    split
    · by_cases hr : r = .aesr
      · subst hr
        exact .refl _
      · rw [sprStore_withAesr s m hr]
        exact .of_mapNext _ m
    · exact .of_mapNext _ m

/-- The one instruction that may carry AESR into a register is an `l.mfspr` of it. -/
theorem exec_alikeButAesr (i : Instr) :
    AlikeButAesr (∃ d a k, i = .mfspr d a k ∧ s.sprNamed a k = some .aesr) (exec i s)
      (exec i (s.withAesr m)) := by
  cases i with
  | mfspr d a k => exact (execMfspr_alikeButAesr s m d a k).mono fun h => ⟨d, a, k, rfl, h⟩
  | mtspr a b k => exact execMtspr_alikeButAesr s m a b k

/-! ### AESR and every step -/

theorem runInstruction_alikeButAesr :
    AlikeButAesr
      (∃ bs d a k, s.fetch = .bytes bs ∧ s.decodeAt bs = .insn (.mfspr d a k) ∧ s.sprNamed a k = some .aesr)
      (runInstruction s) (runInstruction (s.withAesr m)) := by
  have hfetch : (s.withAesr m).fetch = s.fetch := rfl
  have hdecode : ∀ bs, (s.withAesr m).decodeAt bs = s.decodeAt bs := fun _ => rfl
  simp only [runInstruction, hfetch, hdecode]
  cases hf : s.fetch with
  | misaligned =>
    simp only [State.withAesr_raise, State.withAesr_pc]
    exact .of_mapNext (.next _) m
  | unwritten => exact .refl _
  | bytes bs =>
    cases hd : s.decodeAt bs with
    | rejected why => simp only [hd]; exact .refl _
    | insn i =>
      simp only [hd]
      refine (exec_alikeButAesr s m i).mono ?_
      rintro ⟨d, a, k, rfl, hnamed⟩
      exact ⟨bs, d, a, k, rfl, hd, hnamed⟩

theorem arithComplete_withAesr (x : ArithStep) :
    arithComplete (s.withAesr m) x = mapNext (·.withAesr m) (arithComplete s x) := by
  simp only [arithComplete, State.withAesr_writeResult]
  cases s.writeResult x.dest x.result <;> rfl

theorem arithRaise_withAesr (x : ArithStep) (hit : BitVec 7) :
    ∃ m', arithRaise (s.withAesr m) x hit = mapNext (·.withAesr m') (arithRaise s x hit) := by
  obtain ⟨m', h⟩ := State.withAesr_recordHit s m hit
  refine ⟨m', ?_⟩
  simp only [arithRaise, h, State.withAesr_resultOnExc]
  cases (s.recordHit hit).resultOnExc x with
  | none => rfl
  | some t => simp [mapNext, State.withAesr_raise]

/-- The test of an arithmetic event reads SR, AECR and the event, and not AESR (R143, R146). -/
theorem arithStep_alikeButAesr {p : Prop} (x : ArithStep) :
    AlikeButAesr p (arithStep x s) (arithStep x (s.withAesr m)) := by
  have hhit : (s.withAesr m).arithHit x.event = s.arithHit x.event := rfl
  have hove : (s.withAesr m).srFlag srOVE = s.srFlag srOVE := rfl
  have hflags : (s.withAesr m).withArithFlags x = (s.withArithFlags x).withAesr m := rfl
  have complete : AlikeButAesr p (arithComplete (s.withArithFlags x) x)
      (arithComplete ((s.withArithFlags x).withAesr m) x) := by
    rw [arithComplete_withAesr]
    exact .of_mapNext _ m
  simp only [arithStep, State.withAesr_cfg, hhit, hove, hflags]
  split
  · exact .refl _
  · split
    · split
      · exact .refl _
      · rename_i hit _
        split
        · exact complete
        · obtain ⟨m', h⟩ := arithRaise_withAesr (s.withArithFlags x) m x hit
          rw [h]
          exact .of_mapNext _ m'
    · exact complete

theorem jumpStep_withAesr (target : Word) :
    jumpStep target (s.withAesr m) = mapNext (·.withAesr m) (jumpStep target s) := by
  simp only [jumpStep, apply_ite (mapNext _)]
  rfl

theorem returnStep_withAesr : returnStep (s.withAesr m) = mapNext (·.withAesr m) (returnStep s) := by
  simp only [returnStep, apply_ite (mapNext _)]
  rfl

theorem runInput_alikeButAesr (i : Input) :
    AlikeButAesr
      (i = .instruction ∧ ∃ bs d a k, s.fetch = .bytes bs ∧ s.decodeAt bs = .insn (.mfspr d a k) ∧
        s.sprNamed a k = some .aesr)
      (runInput i s) (runInput i (s.withAesr m)) := by
  cases i with
  | instruction => exact (runInstruction_alikeButAesr s m).mono fun h => ⟨rfl, h⟩
  | arith x => exact arithStep_alikeButAesr s m x
  | takenJump target =>
    simp only [runInput, jumpStep_withAesr]
    exact .of_mapNext _ m
  | exceptionReturn =>
    simp only [runInput, returnStep_withAesr]
    exact .of_mapNext _ m
  | reset => exact .refl (.next s.applyReset)

end

/-- The step of a well-formed implementation runs its next input, with the agenda's head taken off. -/
theorem step_eq_runInput {s : State} (hc : configDefect s.cfg = none) :
    step s = runInput s.nextInput (s.withAgenda s.agenda.tail) := by
  cases ha : s.agenda with
  | nil =>
    have hs : s.withAgenda [] = s := by rw [← ha]; rfl
    simp [step, hc, ha, State.nextInput, runInput, hs]
  | cons i rest => simp [step_of_agenda hc ha, State.nextInput, ha]

theorem step_alikeButAesr (s : State) (m : BitVec 7) :
    AlikeButAesr (∃ d a k, s.nextInstr = some (.mfspr d a k) ∧ s.sprNamed a k = some .aesr)
      (step s) (step (s.withAesr m)) := by
  cases hc : configDefect s.cfg with
  | some why =>
    have hc' : configDefect (s.withAesr m).cfg = some why := hc
    rw [step_of_configDefect hc, step_of_configDefect hc']
    exact .refl _
  | none =>
    have hc' : configDefect (s.withAesr m).cfg = none := hc
    rw [step_eq_runInput hc, step_eq_runInput hc']
    refine (runInput_alikeButAesr (s.withAgenda s.agenda.tail) m s.nextInput).mono ?_
    rintro ⟨hi, bs, d, a, k, hf, hd, hnamed⟩
    have hf' : s.fetch = .bytes bs := hf
    have hd' : s.decodeAt bs = .insn (.mfspr d a k) := hd
    exact ⟨d, a, k, by simp [State.nextInstr, hi, hf', hd', Decoded.toOption], hnamed⟩

/-- Settles O39: the two outcomes are alike but for AESR (`step_alikeButAesr`), which each of the three
outcomes of a step spells out. -/
theorem aesrDecidesNothing : Obligations.AesrDecidesNothing := by
  intro s m
  have h := step_alikeButAesr s m
  generalize step s = o, step (s.withAesr m) = o' at h ⊢
  cases h with
  | next t m' g hg => exact ⟨rfl, rfl, rfl, rfl, rfl, ⟨rfl, rfl, rfl⟩, rfl, ⟨rfl, rfl⟩, rfl, hg⟩
  | fault f => rfl
  | refused q => rfl

end Sys2Proof.Machine
end

section
/-! PROOFS. The images of the registers: under the default `LAYOUT` (O16) and what they announce (O12), in
any `LAYOUT` that fits (O18), and after a write in any `LAYOUT` (O17). -/

namespace Sys2Proof.Machine

/-! ### A concatenation of fields as a union of placed fields -/

/-- Two fields together are placed as the low one, and the high one above it. -/
theorem placeBits_append {m n : Nat} (lo : Nat) (x : BitVec m) (y : BitVec n) :
    placeBits lo (x ++ y) = placeBits lo y ||| placeBits (lo + n) x := by
  apply BitVec.eq_of_getLsbD_eq
  intro i hi
  simp only [getLsbD_placeBits, BitVec.getLsbD_or, BitVec.getLsbD_append, hi, decide_true, Bool.true_and]
  by_cases hy : i < lo + n
  · have hx : ¬ lo + n ≤ i := by omega
    by_cases hl : lo ≤ i
    · have hy' : i - lo < n := by omega
      simp [hx, hy']
    · simp [hx, hl]
  · have hl : lo ≤ i := by omega
    have hx : lo + n ≤ i := by omega
    have hy' : ¬ i - lo < n := by omega
    have hyi : y.getLsbD (i - lo) = false := BitVec.getLsbD_of_ge _ _ (by omega)
    simp only [hl, hx, hy', hyi, decide_true, Bool.true_and, if_false, Bool.false_or, Nat.sub_sub]

theorem placeBits_zero_word (x : Word) : placeBits 0 x = x := by simp [placeBits]

theorem placeBits_zero_value (lo n : Nat) : placeBits lo 0#n = 0#32 := by simp [placeBits]

theorem word_or_left_comm (a b c : Word) : a ||| (b ||| c) = b ||| (a ||| c) := by
  rw [← BitVec.or_assoc, BitVec.or_comm a b, BitVec.or_assoc]

/-! ### The images under the default `LAYOUT` (R18)

Each concatenation is taken apart, from its lowest field up, into the fields at the places the default
`LAYOUT` gives them. -/

theorem vrImage_default (r : VrFields) :
    vrImage defaultLayout.vr r = r.ver ++ r.cfg ++ 0#9 ++ BitVec.ofBool r.uvrp ++ r.rev := by
  refine Eq.trans ?_ (placeBits_zero_word _)
  change _ = placeBits (n := 8 + 8 + 9 + 1 + 6) 0 _
  simp only [placeBits_append, placeBits_zero_value]
  simp only [vrImage, defaultLayout, placeFlag, Nat.reduceAdd, BitVec.zero_or, BitVec.or_assoc]

theorem uprImage_default (r : UprFields) :
    uprImage defaultLayout.upr r = r.cup ++ 0#13 ++ BitVec.ofBool r.ttp ++ BitVec.ofBool r.pmp ++
      BitVec.ofBool r.picp ++ BitVec.ofBool r.pcup ++ BitVec.ofBool r.dup ++ BitVec.ofBool r.mp ++
      BitVec.ofBool r.imp ++ BitVec.ofBool r.dmp ++ BitVec.ofBool r.icp ++ BitVec.ofBool r.dcp ++
      BitVec.ofBool r.up := by
  refine Eq.trans ?_ (placeBits_zero_word _)
  change _ = placeBits (n := 8 + 13 + 1 + 1 + 1 + 1 + 1 + 1 + 1 + 1 + 1 + 1 + 1) 0 _
  simp only [placeBits_append, placeBits_zero_value]
  simp only [uprImage, defaultLayout, placeFlag, Nat.reduceAdd, BitVec.zero_or, BitVec.or_assoc,
    word_or_left_comm (placeBits 9 _)]

theorem cpucfgrImage_default (r : CpucfgrFields) :
    cpucfgrImage defaultLayout.cpucfgr r = 0#16 ++ BitVec.ofBool r.of64a32s ++ BitVec.ofBool r.aecsrp ++
      BitVec.ofBool r.isrp ++ BitVec.ofBool r.evbarp ++ BitVec.ofBool r.avrp ++ BitVec.ofBool r.nd ++
      BitVec.ofBool r.ov64s ++ BitVec.ofBool r.of64s ++ BitVec.ofBool r.of32s ++ BitVec.ofBool r.ob64s ++
      BitVec.ofBool r.ob32s ++ BitVec.ofBool r.cgf ++ r.nsgf := by
  refine Eq.trans ?_ (placeBits_zero_word _)
  change _ = placeBits (n := 16 + 1 + 1 + 1 + 1 + 1 + 1 + 1 + 1 + 1 + 1 + 1 + 1 + 4) 0 _
  simp only [placeBits_append, placeBits_zero_value]
  simp only [cpucfgrImage, defaultLayout, placeFlag, Nat.reduceAdd, BitVec.or_zero, BitVec.or_assoc]

theorem mmucfgrImage_default (r : MmucfgrFields) :
    mmucfgrImage defaultLayout.mmucfgr r = 0#20 ++ BitVec.ofBool r.htr ++ BitVec.ofBool r.teiri ++
      BitVec.ofBool r.pri ++ BitVec.ofBool r.cri ++ r.nae ++ r.nts ++ r.ntw := by
  refine Eq.trans ?_ (placeBits_zero_word _)
  change _ = placeBits (n := 20 + 1 + 1 + 1 + 1 + 3 + 3 + 2) 0 _
  simp only [placeBits_append, placeBits_zero_value]
  simp only [mmucfgrImage, defaultLayout, placeFlag, Nat.reduceAdd, BitVec.or_zero, BitVec.or_assoc]

theorem dccfgrImage_default (r : DccfgrFields) :
    dccfgrImage defaultLayout.dccfgr r = 0#17 ++ BitVec.ofBool r.cbwbri ++ BitVec.ofBool r.cbfri ++
      BitVec.ofBool r.cblri ++ BitVec.ofBool r.cbpri ++ BitVec.ofBool r.cbiri ++ BitVec.ofBool r.ccri ++
      BitVec.ofBool r.cws ++ BitVec.ofBool r.bs ++ r.ncs ++ r.ncw := by
  refine Eq.trans ?_ (placeBits_zero_word _)
  change _ = placeBits (n := 17 + 1 + 1 + 1 + 1 + 1 + 1 + 1 + 1 + 4 + 3) 0 _
  simp only [placeBits_append, placeBits_zero_value]
  simp only [dccfgrImage, defaultLayout, placeFlag, Nat.reduceAdd, BitVec.or_zero, BitVec.or_assoc]

theorem iccfgrImage_default (r : IccfgrFields) :
    iccfgrImage defaultLayout.iccfgr r = 0#19 ++ BitVec.ofBool r.cblri ++ BitVec.ofBool r.cbpri ++
      BitVec.ofBool r.cbiri ++ BitVec.ofBool r.ccri ++ 0#1 ++ BitVec.ofBool r.bs ++ r.ncs ++ r.ncw := by
  refine Eq.trans ?_ (placeBits_zero_word _)
  change _ = placeBits (n := 19 + 1 + 1 + 1 + 1 + 1 + 1 + 4 + 3) 0 _
  simp only [placeBits_append, placeBits_zero_value]
  simp only [iccfgrImage, defaultLayout, placeFlag, Nat.reduceAdd, BitVec.or_zero, BitVec.zero_or,
    BitVec.or_assoc]

theorem dcfgrImage_default (r : DcfgrFields) :
    dcfgrImage defaultLayout.dcfgr r = 0#28 ++ BitVec.ofBool r.wpci ++ r.ndp := by
  refine Eq.trans ?_ (placeBits_zero_word _)
  change _ = placeBits (n := 28 + 1 + 3) 0 _
  simp only [placeBits_append, placeBits_zero_value]
  simp only [dcfgrImage, defaultLayout, placeFlag, Nat.reduceAdd, BitVec.or_zero]

theorem pccfgrImage_default (npc : BitVec 3) :
    placeBits defaultLayout.pccfgrNpc npc = 0#29 ++ npc := by
  refine Eq.trans ?_ (placeBits_zero_word _)
  change _ = placeBits (n := 29 + 3) 0 _
  simp only [placeBits_append, placeBits_zero_value]
  simp only [defaultLayout, BitVec.or_zero]

theorem vr2Image_default (r : Vr2Fields) :
    vr2Image defaultLayout.vr2 r = r.cpuid ++ r.ver := by
  refine Eq.trans ?_ (placeBits_zero_word _)
  change _ = placeBits (n := 8 + 24) 0 _
  simp only [placeBits_append]
  simp only [vr2Image, defaultLayout, Nat.reduceAdd, BitVec.or_comm]

theorem avrImage_default (r : AvrFields) :
    avrImage defaultLayout.avr r = r.maj ++ r.min ++ r.rev ++ 0#8 := by
  refine Eq.trans ?_ (placeBits_zero_word _)
  change _ = placeBits (n := 8 + 8 + 8 + 8) 0 _
  simp only [placeBits_append, placeBits_zero_value]
  simp only [avrImage, defaultLayout, Nat.reduceAdd, BitVec.zero_or, BitVec.or_comm]

theorem evbarImage_default (evba : BitVec 19) :
    evbarImage defaultLayout evba = evba ++ 0#13 := by
  refine Eq.trans ?_ (placeBits_zero_word _)
  change _ = placeBits (n := 19 + 13) 0 _
  simp only [placeBits_append, placeBits_zero_value]
  simp only [evbarImage, defaultLayout, Nat.reduceAdd, BitVec.zero_or]

/-- The seven flags of a seven-bit number at the default places are that number. -/
theorem arithImage_default (b : BitVec 7) : arithImage defaultLayout.arith b = 0#25 ++ b := by
  refine Eq.trans ?_ (placeBits_zero_word _)
  change _ = placeBits (n := 25 + 7) 0 _
  rw [placeBits_append, placeBits_zero_value, BitVec.or_zero]
  conv_rhs => rw [← sevenBits_getLsbD b, sevenBits]
  simp only [placeBits_append]
  simp only [arithImage, defaultLayout, placeFlag, Nat.reduceAdd, BitVec.or_assoc]

/-- Settles O16: the image of each register, one lemma each, at the default `LAYOUT`. -/
theorem imagesUnderDefaultLayout : Obligations.ImagesUnderDefaultLayout := by
  intro s hl
  simp only [State.image, hl]
  exact ⟨vrImage_default _, uprImage_default _, cpucfgrImage_default _, mmucfgrImage_default _,
    mmucfgrImage_default _, dccfgrImage_default _, iccfgrImage_default _, dcfgrImage_default _,
    pccfgrImage_default _, vr2Image_default _, avrImage_default _, evbarImage_default _,
    arithImage_default _, arithImage_default _⟩

/-! ### The images in any `LAYOUT` that fits (O18) -/

/-- One field of a register whose fields fit: it lies in the word, apart from every later one, and the
later ones fit. -/
theorem spansFit_cons {f : Nat × Nat} {rest : List (Nat × Nat)} :
    spansFit (f :: rest) = true ↔
      f.1 + f.2 ≤ 32 ∧ (∀ g ∈ rest, f.1 + f.2 ≤ g.1 ∨ g.1 + g.2 ≤ f.1) ∧ spansFit rest = true := by
  simp [spansFit, spansApart, and_assoc]

theorem vrImage_fields {l : VrLayout} (r : VrFields)
    (h : spansFit [(l.rev, 6), (l.uvrp, 1), (l.cfg, 8), (l.ver, 8)] = true) :
    takeBits l.rev 6 (vrImage l r) = r.rev ∧ takeBits l.uvrp 1 (vrImage l r) = BitVec.ofBool r.uvrp ∧
    takeBits l.cfg 8 (vrImage l r) = r.cfg ∧ takeBits l.ver 8 (vrImage l r) = r.ver := by
  simp only [spansFit_cons, List.mem_cons, List.not_mem_nil, forall_eq_or_imp, or_false, forall_eq] at h
  refine ⟨?_, ?_, ?_, ?_⟩ <;>
    simp (disch := omega) only [vrImage, placeFlag, takeBits_or, takeBits_placeBits,
      takeBits_placeBits_apart, BitVec.or_zero, BitVec.zero_or]

theorem vr2Image_fields {l : Vr2Layout} (r : Vr2Fields) (h : spansFit [(l.cpuid, 8), (l.ver, 24)] = true) :
    takeBits l.cpuid 8 (vr2Image l r) = r.cpuid ∧ takeBits l.ver 24 (vr2Image l r) = r.ver := by
  simp only [spansFit_cons, List.mem_cons, List.not_mem_nil, or_false, forall_eq] at h
  refine ⟨?_, ?_⟩ <;>
    simp (disch := omega) only [vr2Image, takeBits_or, takeBits_placeBits, takeBits_placeBits_apart,
      BitVec.or_zero, BitVec.zero_or]

theorem avrImage_fields {l : AvrLayout} (r : AvrFields)
    (h : spansFit [(l.maj, 8), (l.min, 8), (l.rev, 8)] = true) :
    takeBits l.maj 8 (avrImage l r) = r.maj ∧ takeBits l.min 8 (avrImage l r) = r.min ∧
    takeBits l.rev 8 (avrImage l r) = r.rev := by
  simp only [spansFit_cons, List.mem_cons, List.not_mem_nil, forall_eq_or_imp, or_false, forall_eq] at h
  refine ⟨?_, ?_, ?_⟩ <;>
    simp (disch := omega) only [avrImage, takeBits_or, takeBits_placeBits, takeBits_placeBits_apart,
      BitVec.or_zero, BitVec.zero_or]

/-- Settles O18: a field read at its place is itself, and every other field of its register adds nothing
there, since the two are apart. -/
theorem fieldsStandAtTheirPlaces : Obligations.FieldsStandAtTheirPlaces := by
  intro s h
  have fits {fields : List (Nat × Nat)} (hf : fields ∈ layoutSpans s.cfg.layout) :
      spansFit fields = true := List.all_eq_true.mp h fields hf
  obtain ⟨hrev, huvrp, hcfg, hver⟩ :=
    vrImage_fields (l := s.cfg.layout.vr) s.cfg.vr (fits (by simp [layoutSpans]))
  obtain ⟨hcpuid, hver2⟩ :=
    vr2Image_fields (l := s.cfg.layout.vr2) s.cfg.vr2 (fits (by simp [layoutSpans]))
  obtain ⟨hmaj, hmin, hrev'⟩ :=
    avrImage_fields (l := s.cfg.layout.avr) s.cfg.avr (fits (by simp [layoutSpans]))
  have hevba : s.cfg.layout.evbarEvba + 19 ≤ 32 :=
    (spansFit_cons.mp (fits (by simp [layoutSpans] : [(s.cfg.layout.evbarEvba, 19)] ∈ _))).1
  exact ⟨hrev, huvrp, hcfg, hver, hcpuid, hver2, hmaj, hmin, hrev', takeBits_placeBits s.evba hevba⟩

/-! ### What the images of VR and CPUCFGR announce (O12) -/

/-- The fields of VR that announce registers, in its image: UVRP and CFG (R21, R22). -/
theorem vrImage_default_announces (r : VrFields) :
    (vrImage defaultLayout.vr r).getLsbD 6 = r.uvrp ∧
    (vrImage defaultLayout.vr r).extractLsb' 16 8 = r.cfg := by
  constructor
  · rw [vrImage_default]
    simp only [BitVec.getLsbD_append]
    simp
  · obtain ⟨-, -, hcfg, -⟩ := vrImage_fields (l := defaultLayout.vr) r (by decide)
    exact hcfg

/-- The fields of CPUCFGR that announce registers, in its image (R32, R68). -/
theorem cpucfgrImage_default_announces (r : CpucfgrFields) :
    (cpucfgrImage defaultLayout.cpucfgr r).getLsbD 11 = r.avrp ∧
    (cpucfgrImage defaultLayout.cpucfgr r).getLsbD 12 = r.evbarp ∧
    (cpucfgrImage defaultLayout.cpucfgr r).getLsbD 13 = r.isrp ∧
    (cpucfgrImage defaultLayout.cpucfgr r).getLsbD 14 = r.aecsrp := by
  rw [cpucfgrImage_default]
  simp only [BitVec.getLsbD_append]
  simp

/-- Settles O12: the presence predicates read the very fields that the two images show. -/
theorem readImagesAnnouncePresence : Obligations.ReadImagesAnnouncePresence := by
  intro s hl
  obtain ⟨huvrp, hcfg⟩ := vrImage_default_announces s.cfg.vr
  obtain ⟨havrp, hevbarp, hisrp, haecsrp⟩ := cpucfgrImage_default_announces s.cfg.cpucfgr
  simp only [State.image, hl, huvrp, hcfg, havrp, hevbarp, hisrp, haecsrp]
  refine ⟨rfl, fun r hr => ?_, fun hp => ?_⟩
  · have hpresent : present s.cfg r = cfgrImpl s.cfg := by
      simp only [List.mem_cons, List.not_mem_nil, or_false] at hr
      rcases hr with rfl | rfl | rfl | rfl | rfl | rfl | rfl <;> rfl
    simp [hpresent, cfgrImpl]
  · have hc : cfgrImpl s.cfg = true := hp
    simp [present, hc]

/-! ### The image of what a write stores, in any `LAYOUT` (O17) -/

/-- A field read from a word and placed back is the word in the field's bits, 0 elsewhere. -/
theorem placeBits_takeBits (lo n : Nat) (v : Word) :
    placeBits lo (takeBits lo n v) = v &&& placeBits lo (-1#n) := by
  apply BitVec.eq_of_getLsbD_eq
  intro i hi
  simp only [BitVec.getLsbD_and, getLsbD_placeBits, getLsbD_takeBits, BitVec.neg_one_eq_allOnes,
    BitVec.getLsbD_allOnes, hi, decide_true, Bool.true_and]
  by_cases hl : lo ≤ i
  · simp [hl, Bool.and_comm]
  · simp [hl]

theorem placeFlag_getLsbD (lo : Nat) (v : Word) : placeFlag lo (v.getLsbD lo) = v &&& placeFlag lo true := by
  apply BitVec.eq_of_getLsbD_eq
  intro i hi
  simp only [BitVec.getLsbD_and, getLsbD_placeFlag, hi, decide_true, Bool.true_and, Bool.and_true]
  by_cases h : i = lo <;> simp [h]

/-- Settles O17: the fields of EVBAR and of the arithmetic registers, one by one; where two overlap, both
hold the same bit of the value. -/
theorem writtenFieldsReadBackInAnyLayout : Obligations.WrittenFieldsReadBackInAnyLayout := by
  intro l v
  refine ⟨placeBits_takeBits l.evbarEvba 19 v, ?_⟩
  obtain ⟨h0, h1, h2, h3, h4, h5, h6⟩ := getLsbD_sevenBits (v.getLsbD l.arith.cyadde)
    (v.getLsbD l.arith.ovadde) (v.getLsbD l.arith.cymule) (v.getLsbD l.arith.ovmule)
    (v.getLsbD l.arith.dbze) (v.getLsbD l.arith.cymacadde) (v.getLsbD l.arith.ovmacadde)
  have hones : ∀ i < 7, (-1#7).getLsbD i = true := by decide
  simp only [arithImage, arithBits, h0, h1, h2, h3, h4, h5, h6, hones, Nat.reduceLT,
    placeFlag_getLsbD, BitVec.and_or_distrib_left]

end Sys2Proof.Machine
end

section
/-! PROOFS. The implementation: what the checks of a `Config` say (O10), which registers are present
without configuration registers (O11), the derived quantities and their bounds (O58, O13), and the SPR
numbers (O14). -/

namespace Sys2Proof.Machine

/-! ### Each check as what it says -/

section
variable (c : Config)

theorem verLegal_iff : verLegal c = true ↔ 0x10 ≤ c.vr.ver.toNat ∧ c.vr.ver.toNat ≤ 0x19 := by
  simp [verLegal]

theorem cfgLegal_iff : cfgLegal c = true ↔ c.vr.cfg.toNat ≤ 99 := by simp [cfgLegal]

theorem uvrpConsistent_iff :
    uvrpConsistent c = true ↔ (c.vr.uvrp = true → present c .vr2 = true ∧ present c .avr = true) := by
  unfold uvrpConsistent
  cases c.vr.uvrp <;> simp

theorem rangesLegal_iff :
    rangesLegal c = true ↔
      (c.upr.dmp = true → c.dmmucfgr.nae.toNat ≤ 4) ∧ (c.upr.imp = true → c.immucfgr.nae.toNat ≤ 4) ∧
      (c.upr.dcp = true → c.dccfgr.ncw.toNat ≤ 5 ∧ c.dccfgr.ncs.toNat ≤ 10) ∧
      (c.upr.icp = true → c.iccfgr.ncw.toNat ≤ 5 ∧ c.iccfgr.ncs.toNat ≤ 10) := by
  have gate (unit : Bool) (p : Prop) : unit = false ∨ p ↔ (unit = true → p) := by cases unit <;> simp
  simp only [rangesLegal, Bool.and_eq_true, Bool.or_eq_true, Bool.not_eq_true', decide_eq_true_eq, gate,
    and_assoc]

theorem uprConsistent_iff :
    uprConsistent c = true ↔
      (c.upr.up = false →
        c.upr = { up := false, dcp := false, icp := false, dmp := false, imp := false, mp := false,
                  dup := false, pcup := false, pmp := false, picp := false, ttp := false, cup := 0 }) := by
  unfold uprConsistent
  rcases c.upr with ⟨up, dcp, icp, dmp, imp, mp, dup, pcup, pmp, picp, ttp, cup⟩
  cases up <;> simp [and_assoc]

theorem ngprConsistent_iff :
    ngprConsistent c = true ↔ (c.cpucfgr.cgf = false → c.ngpr = 32) ∧ (c.cpucfgr.cgf = true → c.ngpr < 32) := by
  unfold ngprConsistent
  cases c.cpucfgr.cgf <;> simp

end

/-- The check lists each register once, so no repeat among the addresses is injectivity (D3). -/
theorem sprNumInjective_iff (t : SprNum) :
    sprNumInjective t = true ↔
      (∀ r, sprAddrOf t r ≠ t.sr) ∧ ∀ r r', sprAddrOf t r = sprAddrOf t r' → r = r' := by
  have hnodup : allSprs.Nodup := by decide
  simp only [sprNumInjective, allApart_iff, List.nodup_cons, List.nodup_map_iff_inj_on hnodup, List.mem_map,
    mem_allSprs, true_and, true_imp_iff, not_exists]

/-- Settles O10: the nine checks (`configDefect_eq_none`), each as what it says. -/
theorem wellFormedConfigIsLegal : Obligations.WellFormedConfigIsLegal := by
  intro c
  simp only [configDefect_eq_none, verLegal_iff, cfgLegal_iff, uvrpConsistent_iff, rangesLegal_iff,
    uprConsistent_iff, ngprConsistent_iff, sprNumInjective_iff, and_assoc]

/-! ### Presence without configuration registers (O11) -/

/-- Settles O11: every presence predicate but VR's and UPR's asks for CFG below 50, VR2's because UVRP
announces AVR too (R72). -/
theorem noConfigRegistersLeaveTwo : Obligations.NoConfigRegistersLeaveTwo := by
  intro c r hc hcfg
  have himpl : cfgrImpl c = false := by simpa [cfgrImpl] using hcfg
  have huvrp : c.vr.uvrp = false := by
    obtain ⟨-, -, h, -⟩ := (configDefect_eq_none c).mp hc
    by_contra hu
    obtain ⟨-, havr⟩ := (uvrpConsistent_iff c).mp h (by simpa using hu)
    simp [present, himpl] at havr
  cases r <;> simp [present, himpl, huvrp]

/-! ### The derived quantities (O58, O13) -/

/-- A unit's quantity is there exactly where CPUCFGR is and UPR announces the unit (R74). -/
theorem whenUnit_exact (c : Config) (unit : Bool) (n : Nat) :
    (present c .cpucfgr = true ∧ unit = true → whenUnit c unit n = some n) ∧
      (present c .cpucfgr = false ∨ unit = false → whenUnit c unit n = none) := by
  simp only [whenUnit, present]
  cases cfgrImpl c <;> cases unit <;> simp

/-- Settles O58: each quantity is its rule's value behind its unit's gate, `whenUnit`. -/
theorem derivedQuantitiesAreExact : Obligations.DerivedQuantitiesAreExact := by
  intro c given
  refine ⟨?_, ?_, ?_, ?_, ?_, ?_, ?_, ?_, ?_, ?_, ?_, ?_, ?_, ?_, ?_, ?_, ?_, ?_, ?_⟩ <;>
    exact whenUnit_exact c _ _

/-- A quantity of either of two units is within a bound that the fields of each meet where the unit is
present. -/
theorem whenUnit_either {c : Config} {u u' : Bool} {k k' n : Nat} (p : Nat → Prop)
    (hk : u = true → p k) (hk' : u' = true → p k')
    (h : whenUnit c u k = some n ∨ whenUnit c u' k' = some n) : p n := by
  rcases h with h | h
  · obtain ⟨-, hu, rfl⟩ := whenUnit_eq_some.mp h
    exact hk hu
  · obtain ⟨-, hu, rfl⟩ := whenUnit_eq_some.mp h
    exact hk' hu

theorem two_pow_bounds {n k : Nat} (h : n ≤ k) : 1 ≤ 2 ^ n ∧ 2 ^ n ≤ 2 ^ k :=
  ⟨Nat.one_le_two_pow, Nat.pow_le_pow_right (by decide) h⟩

theorem tlbWays_bounds (m : MmucfgrFields) : 1 ≤ tlbWays m ∧ tlbWays m ≤ 4 := by
  have := m.ntw.isLt
  unfold tlbWays
  omega

theorem tlbSets_bounds (m : MmucfgrFields) : 1 ≤ tlbSets m ∧ tlbSets m ≤ 128 :=
  two_pow_bounds (k := 7) (by have := m.nts.isLt; omega)

theorem tlbEntries_bounds (m : MmucfgrFields) : 1 ≤ tlbEntries m ∧ tlbEntries m ≤ 512 := by
  obtain ⟨hw, hw'⟩ := tlbWays_bounds m
  obtain ⟨hs, hs'⟩ := tlbSets_bounds m
  exact ⟨Nat.mul_le_mul hw hs, Nat.mul_le_mul hw' hs'⟩

theorem cacheBlockBytes_eq (bs : Bool) : cacheBlockBytes bs = 16 ∨ cacheBlockBytes bs = 32 := by
  cases bs <;> decide

theorem cacheBytes_bounds {ncw : BitVec 3} {ncs : BitVec 4} (bs : Bool) (hw : ncw.toNat ≤ 5)
    (hs : ncs.toNat ≤ 10) : 16 ≤ cacheBytes ncw ncs bs ∧ cacheBytes ncw ncs bs ≤ 1048576 := by
  obtain ⟨w, w'⟩ := two_pow_bounds hw
  obtain ⟨s, s'⟩ := two_pow_bounds hs
  have b : 16 ≤ cacheBlockBytes bs := by rcases cacheBlockBytes_eq bs with h | h <;> omega
  have b' : cacheBlockBytes bs ≤ 32 := by rcases cacheBlockBytes_eq bs with h | h <;> omega
  exact ⟨Nat.mul_le_mul (Nat.mul_le_mul w s) b, Nat.mul_le_mul (Nat.mul_le_mul w' s') b'⟩

theorem counts_bounds (n : BitVec 3) : 1 ≤ n.toNat + 1 ∧ n.toNat + 1 ≤ 8 := by
  have := n.isLt
  omega

/-- Settles O13: the widths of the fields bound each quantity, and where they leave more than the source
describes, for caches and ATBs, `rangesLegal` does (R73). -/
theorem geometryBounds : Obligations.GeometryBounds := by
  intro c hc
  obtain ⟨-, -, -, hranges, -⟩ := (configDefect_eq_none c).mp hc
  obtain ⟨hdmmu, himmu, hdc, hic⟩ := (rangesLegal_iff c).mp hranges
  refine ⟨fun n h => ?_, fun n => ?_, fun n => ?_, fun n => ?_, fun n => ?_, fun n => ?_, fun n => ?_,
    fun n => ?_, fun n => ?_, fun n => ?_⟩
  · -- shadow files
    obtain ⟨-, -, rfl⟩ := whenUnit_eq_some.mp h
    exact Nat.le_of_lt_succ c.cpucfgr.nsgf.isLt
  · -- TLB ways
    exact whenUnit_either (fun n => 1 ≤ n ∧ n ≤ 4) (fun _ => tlbWays_bounds _) (fun _ => tlbWays_bounds _)
  · -- TLB sets
    exact whenUnit_either (fun n => 1 ≤ n ∧ n ≤ 128) (fun _ => tlbSets_bounds _) (fun _ => tlbSets_bounds _)
  · -- TLB entries
    exact whenUnit_either (fun n => 1 ≤ n ∧ n ≤ 512) (fun _ => tlbEntries_bounds _)
      (fun _ => tlbEntries_bounds _)
  · -- ATB entries
    exact whenUnit_either (fun n => n ≤ 4) hdmmu himmu
  · -- cache ways
    exact whenUnit_either (fun n => 1 ≤ n ∧ n ≤ 32) (fun hu => two_pow_bounds (hdc hu).1)
      (fun hu => two_pow_bounds (hic hu).1)
  · -- cache sets
    exact whenUnit_either (fun n => 1 ≤ n ∧ n ≤ 1024) (fun hu => two_pow_bounds (hdc hu).2)
      (fun hu => two_pow_bounds (hic hu).2)
  · -- cache blocks
    exact whenUnit_either (fun n => n = 16 ∨ n = 32) (fun _ => cacheBlockBytes_eq _)
      (fun _ => cacheBlockBytes_eq _)
  · -- cache bytes
    exact whenUnit_either (fun n => 16 ≤ n ∧ n ≤ 1048576)
      (fun hu => cacheBytes_bounds _ (hdc hu).1 (hdc hu).2)
      (fun hu => cacheBytes_bounds _ (hic hu).1 (hic hu).2)
  · -- debug pairs and performance counters
    exact whenUnit_either (fun n => 1 ≤ n ∧ n ≤ 8) (fun _ => counts_bounds c.dcfgr.ndp)
      (fun _ => counts_bounds c.pccfgr.npc)

/-! ### The SPR numbers (O14) -/

/-- Settles O14: the first register found at an address has it (`regAt_addr`), and no other register has
(`sprNumInjective_iff`). -/
theorem sprNumbersNameRegisters : Obligations.SprNumbersNameRegisters := by
  intro t ht
  obtain ⟨hsr, hinj⟩ := (sprNumInjective_iff t).mp ht
  refine ⟨fun r => ?_, fun a r => regAt_addr, ?_⟩
  · cases hfound : regAt t (sprAddrOf t r) with
    | none =>
      have hnone := List.find?_eq_none.mp hfound r (mem_allSprs r)
      simp at hnone
    | some r' => rw [hinj r' r (regAt_addr hfound)]
  · cases hfound : regAt t t.sr with
    | none => rfl
    | some r => exact absurd (regAt_addr hfound) (hsr r)

end Sys2Proof.Machine
end

section
/-! PROOFS. An access that reaches a present register in supervisor mode: a read of an ISR (O23), and a
write of EVBAR, AECR and AESR (O24 to O26). -/

namespace Sys2Proof.Machine

section
variable {s : State} {k : SprAddr} {r : Spr}

/-- `l.mfspr` of a present register into a register other than 0 (R120, R124). -/
theorem exec_mfspr_present {d a : RegNo} (hr : Reaches s [d, a] a k r) (hs : s.supervisor = true)
    (hp : present s.cfg r = true) (hd : d ≠ 0#5) :
    exec (.mfspr d a k) s =
      .next (((if s.readDraws r then s.withDraws (s.draws + 1) else s).writeGpr d (s.image r)).advance) := by
  have hgate : sprGate s [d, a] a k = .pass r := sprGate_pass_iff.mpr ⟨hr, hs⟩
  have hread : sprRead s r = some (s.image r, if s.readDraws r then s.withDraws (s.draws + 1) else s) := by
    simp [sprRead, hp]
  simp only [exec, execMfspr, hgate, hread, State.writeDest_of_ne _ _ hd]

/-- `l.mtspr` to a present register (R121, R125). -/
theorem exec_mtspr_present {a b : RegNo} (hr : Reaches s [a, b] a k r) (hs : s.supervisor = true)
    (hp : present s.cfg r = true) : exec (.mtspr a b k) s = sprStore s r (s.readGpr b) := by
  have hgate : sprGate s [a, b] a k = .pass r := sprGate_pass_iff.mpr ⟨hr, hs⟩
  simp only [exec, execMtspr, hgate, hp, if_true]

end

/-- Settles O23: the image of an ISR is the supplied value, else the free value its read takes, and its
store is the refusal. -/
theorem implementationSpecificRegisters : Obligations.ImplementationSpecificRegisters := by
  refine ⟨fun s d a k i hr hs hp hd => ?_, fun s a b k i hr hs hp => exec_mtspr_present hr hs hp⟩
  have hexec := exec_mfspr_present hr hs hp hd
  refine ⟨fun v hv => ⟨_, hexec, ?_⟩, fun hv => ⟨_, hexec, ?_⟩⟩
  · simp [State.image, State.readDraws, hv]
  · simp [State.image, State.readDraws, hv]

/-! ### What a write stores, under the default `LAYOUT` -/

theorem evbaBits_default (v : Word) : evbaBits defaultLayout v = v.extractLsb' 13 19 := rfl

theorem arithBits_default (v : Word) : arithBits defaultLayout.arith v = v.extractLsb' 0 7 := by
  have hbit (i : Nat) (hi : i < 7) : (v.extractLsb' 0 7).getLsbD i = v.getLsbD i := by simp [hi]
  rw [← sevenBits_getLsbD (v.extractLsb' 0 7)]
  simp only [hbit, Nat.reduceLT]
  rfl

/-- A value written to EVBAR reads back as a multiple of 8192 (R56). -/
theorem evbarImage_evbaBits_default (v : Word) :
    evbarImage defaultLayout (evbaBits defaultLayout v) = v &&& 0xFFFFE000#32 := by
  obtain ⟨h, -⟩ := writtenFieldsReadBackInAnyLayout defaultLayout v
  have hmask : evbarImage defaultLayout (-1#19) = 0xFFFFE000#32 := by decide
  rw [h, hmask]

/-- Settles O24: the store writes EVBA alone and advances. -/
theorem mtsprWritesEvbar : Obligations.MtsprWritesEvbar := by
  intro s a b k hl hr hs hp
  have hexec := exec_mtspr_present hr hs hp
  simp only [sprStore, hl] at hexec
  refine ⟨_, hexec, evbaBits_default _, ?_, ?_, rfl, rfl, fun _ => rfl, rfl, ⟨rfl, rfl, rfl⟩,
    fun _ => rfl, ⟨rfl, rfl⟩, ⟨rfl, rfl⟩, rfl⟩
  · simp only [State.image, State.advance_cfg, State.withEvba_cfg, hl]
    exact evbarImage_default _
  · simp only [State.image, State.advance_cfg, State.withEvba_cfg, hl]
    exact evbarImage_evbaBits_default _

/-- Settles O25: the store writes AECR alone and advances. -/
theorem mtsprWritesAecr : Obligations.MtsprWritesAecr := by
  intro s a b k hl hr hs hp
  have hexec := exec_mtspr_present hr hs hp
  simp only [sprStore, hl] at hexec
  refine ⟨_, hexec, arithBits_default _, ?_, rfl, rfl, fun _ => rfl, rfl, ⟨rfl, rfl, rfl⟩,
    fun _ => rfl, ⟨rfl, rfl⟩, ⟨rfl, rfl⟩, rfl⟩
  simp only [State.image, State.advance_cfg, State.withAecr_cfg, hl]
  exact arithImage_default _

/-- Settles O26: the store writes AESR alone, and what it writes is held against no condition, so that
control goes on. -/
theorem mtsprWritesAesr : Obligations.MtsprWritesAesr := by
  intro s a b k hl hr hs hp
  have hexec := exec_mtspr_present hr hs hp
  simp only [sprStore, hl] at hexec
  refine ⟨_, hexec, arithBits_default _, ?_, rfl, rfl, fun _ => rfl, rfl, ⟨rfl, rfl, rfl⟩,
    fun _ => rfl, ⟨rfl, rfl⟩, ⟨rfl, rfl⟩, rfl⟩
  simp only [State.image, State.advance_cfg, State.withAesr_cfg, hl]
  exact arithImage_default _

end Sys2Proof.Machine
end

section
/-! PROOFS. The fetch that finds no instruction (O8), the place of the registers in the SPR space (O15), and
what the next step sees of a write (O50). -/

namespace Sys2Proof.Machine

/-! ### A fetch that finds no instruction (O8) -/

section
variable {s : State}

theorem State.fetch_of_not_wordAligned (h : wordAligned s.pc = false) : s.fetch = .misaligned := by
  simp [State.fetch, h]

/-- A missing first byte is enough for the fetch to find nothing. -/
theorem State.fetch_of_read_none (ha : wordAligned s.pc = true)
    (hr : Memory.read s.mem s.pc.toNat = none) : s.fetch = .unwritten := by
  simp [State.fetch, ha, Memory.readWord, hr]

theorem runInstruction_of_misaligned (h : s.fetch = .misaligned) :
    runInstruction s = .next (s.raise .alignment (some s.pc)) := by
  simp [runInstruction, h]

theorem runInstruction_of_unwritten (h : s.fetch = .unwritten) :
    runInstruction s = .fault .fetchUnwritten := by
  simp [runInstruction, h]

end

/-- Settles O8: the fetch does not read the agenda, so the step is the alignment exception, or the fault,
of the state with the agenda's head taken off. -/
theorem fetchThatFindsNoInstruction : Obligations.FetchThatFindsNoInstruction := by
  intro s hc hi
  have hstep : step s = runInstruction (s.withAgenda s.agenda.tail) := by
    rw [step_eq_runInput hc, hi, runInput]
  refine ⟨fun ha => ?_, fun ha hr => ?_⟩
  · have hfetch : (s.withAgenda s.agenda.tail).fetch = .misaligned := State.fetch_of_not_wordAligned ha
    refine ⟨_, hstep.trans (runInstruction_of_misaligned hfetch), State.raise_pc ..,
      State.raise_supervisor .., ⟨State.raise_evba .., State.raise_aecr .., State.raise_aesr ..⟩,
      fun _ => by rw [State.raise_mem, State.withAgenda_mem], fun co hco => ?_⟩
    rw [State.raise_family (s.withAgenda s.agenda.tail) _ _ hco]
    exact ⟨fun _ => rfl, rfl, rfl, rfl⟩
  · have hfetch : (s.withAgenda s.agenda.tail).fetch = .unwritten := State.fetch_of_read_none ha hr
    exact hstep.trans (runInstruction_of_unwritten hfetch)

/-! ### The SPR space (O15) -/

/-- Below 0x0800 the five group bits of an SPR address are 0, and the index is all of it (R81). -/
theorem sprAddr_of_lt {a : SprAddr} (h : a.toNat < 0x0800) :
    sprGroup a = 0#5 ∧ a = (sprIndex a).setWidth 16 := by
  constructor
  · apply BitVec.eq_of_toNat_eq
    simp only [sprGroup, BitVec.extractLsb'_toNat, BitVec.toNat_ofNat, Nat.shiftRight_eq_div_pow]
    omega
  · apply BitVec.eq_of_toNat_eq
    simp only [sprIndex, BitVec.toNat_setWidth, BitVec.extractLsb'_toNat, Nat.shiftRight_zero]
    omega

theorem sprAddrOf_default_lt (r : Spr) : (sprAddrOf defaultSprNum r).toNat < 0x0800 :=
  have hall : ∀ r ∈ allSprs, (sprAddrOf defaultSprNum r).toNat < 0x0800 := by decide
  hall r (mem_allSprs r)

/-- Settles O15: a register found at an address has it (`regAt_addr`), and every address of the default
`SPRNUM` is below the first one of group 1. -/
theorem registersStandInGroupZero : Obligations.RegistersStandInGroupZero := by
  intro a r h
  have hlt : a.toNat < 0x0800 := regAt_addr h ▸ sprAddrOf_default_lt r
  obtain ⟨hgroup, hindex⟩ := sprAddr_of_lt hlt
  exact ⟨hgroup, hindex, hlt⟩

/-! ### What the next step sees of a write (O50) -/

/-- A vector where EVBAR is present (R150). -/
theorem State.vectorAddress_of_evbar {s : State} (hp : present s.cfg .evbar = true) (e : ExceptionKind) :
    s.vectorAddress e =
      (s.evba ++ 0#13 ||| if s.srFlag srEPH then s.cfg.ephOffset else 0#32) +
        offsetOf s.cfg.vectorOffset e := by
  simp [State.vectorAddress, Machine.vectorAddress, vectorBase, hp]

/-- The test of an arithmetic event where AECR is present (R143). -/
theorem State.arithHit_of_aecr {s : State} (hp : present s.cfg .aecr = true) (e : ArithEvent) :
    s.arithHit e = some (conditions e &&& s.aecr) := by
  simp [State.arithHit, State.arithMask, hp]

/-- The vector area that a write of `v` to EVBAR selects (R56). -/
theorem evbaBits_default_base (v : Word) : evbaBits defaultLayout v ++ 0#13 = v &&& 0xFFFFE000#32 := by
  rw [← evbarImage_default, evbarImage_evbaBits_default]

/-- Settles O50: the store has put the new value where the vectors and the test read it, and has moved
nothing else they read. -/
theorem writeIsVisibleToNextStep : Obligations.WriteIsVisibleToNextStep := by
  intro s t a b k r hl hs hp hr hexec
  rw [exec_mtspr_present hr hs hp] at hexec
  refine ⟨?_, ?_⟩
  · rintro rfl e
    cases hexec
    have hpt : present (s.withEvba (evbaBits s.cfg.layout (s.readGpr b))).advance.cfg .evbar = true := hp
    rw [State.vectorAddress_of_evbar hpt]
    simp only [State.advance_evba, State.withEvba_evba, hl, evbaBits_default_base]
    rfl
  · rintro rfl e
    cases hexec
    have hpt : present (s.withAecr (arithBits s.cfg.layout.arith (s.readGpr b))).advance.cfg .aecr = true := hp
    rw [State.arithHit_of_aecr hpt]
    simp only [State.advance_aecr, State.withAecr_aecr, hl, arithBits_default]

end Sys2Proof.Machine
end

section
/-! PROOFS. The encoding: decoder and encoder are inverse (O1, O2), the two rows of the opcode map (O3), the
tabulated words (O4) and the immediate (O5); and the step that runs the instruction at pc (O6, O7). -/

namespace Sys2Proof.Machine

/-! ### The fields of an encoded word (R101 to R103) -/

/-- A field is its bits, each where it stands in the word. -/
theorem takeBits_eq_of_bits {lo n : Nat} {w : Word} {x : BitVec n}
    (h : ∀ j < n, w.getLsbD (lo + j) = x.getLsbD j) : takeBits lo n w = x :=
  BitVec.eq_of_getLsbD_eq fun j hj => by rw [getLsbD_takeBits, decide_eq_true hj, Bool.true_and, h j hj]

/-- Bit `i` of the immediate of `l.mtspr`, whose two parts stand ten bits apart (R103). -/
theorem getLsbD_mtspr_immediate (w : Word) {i : Nat} (hi : i < 16) :
    (takeBits 21 5 w ++ takeBits 0 11 w).getLsbD i = w.getLsbD (if i < 11 then i else i + 10) := by
  rw [BitVec.getLsbD_append, getLsbD_takeBits, getLsbD_takeBits]
  split
  · simp (disch := omega) only [decide_eq_true, Bool.true_and, Nat.zero_add]
  · have hplace : 21 + (i - 11) = i + 10 := by omega
    simp (disch := omega) only [decide_eq_true, Bool.true_and, hplace]

theorem encode_mfspr_fields (d a : RegNo) (k : SprAddr) :
    majorOpcode (encode (.mfspr d a k)) = opMfspr ∧ takeBits 21 5 (encode (.mfspr d a k)) = d ∧
      takeBits 16 5 (encode (.mfspr d a k)) = a ∧ takeBits 0 16 (encode (.mfspr d a k)) = k := by
  refine ⟨?_, ?_, ?_, ?_⟩ <;> refine takeBits_eq_of_bits fun j hj => ?_ <;>
    simp (disch := omega) only [getLsbD_encode_mfspr, if_pos, if_neg, Nat.add_sub_cancel_left, Nat.zero_add]

theorem encode_mtspr_fields (a b : RegNo) (k : SprAddr) :
    majorOpcode (encode (.mtspr a b k)) = opMtspr ∧ takeBits 16 5 (encode (.mtspr a b k)) = a ∧
      takeBits 11 5 (encode (.mtspr a b k)) = b := by
  refine ⟨?_, ?_, ?_⟩ <;> refine takeBits_eq_of_bits fun j hj => ?_ <;>
    simp (disch := omega) only [getLsbD_encode_mtspr, if_pos, if_neg, Nat.add_sub_cancel_left]

/-- The two parts of the immediate, taken from the word of `l.mtspr`, make the immediate again. -/
theorem encode_mtspr_immediate (a b : RegNo) (k : SprAddr) :
    takeBits 21 5 (encode (.mtspr a b k)) ++ takeBits 0 11 (encode (.mtspr a b k)) = k := by
  refine BitVec.eq_of_getLsbD_eq fun j hj => ?_
  rw [getLsbD_mtspr_immediate _ hj]
  split <;> simp (disch := omega) only [getLsbD_encode_mtspr, if_pos, if_neg, Nat.add_sub_cancel]

/-! ### What a word decodes to (R101, R102, R105) -/

section
variable {w : Word} {k : SprAddr}

theorem decode_eq_mfspr_iff {d a : RegNo} :
    decode w = .insn (.mfspr d a k) ↔
      majorOpcode w = opMfspr ∧ d = takeBits 21 5 w ∧ a = takeBits 16 5 w ∧ k = takeBits 0 16 w := by
  unfold decode
  split
  · rename_i h; simp [h, eq_comm]
  · rename_i h; split <;> simp [h]

theorem decode_eq_mtspr_iff {a b : RegNo} :
    decode w = .insn (.mtspr a b k) ↔
      majorOpcode w = opMtspr ∧ a = takeBits 16 5 w ∧ b = takeBits 11 5 w ∧
        k = takeBits 21 5 w ++ takeBits 0 11 w := by
  have hop : opMfspr ≠ opMtspr := by decide
  unfold decode
  split
  · rename_i h; simp [h, hop]
  · split
    · rename_i h; simp [h, eq_comm]
    · rename_i h; simp [h]

theorem decode_eq_notSpecified_iff :
    decode w = .rejected .notSpecified ↔ majorOpcode w ≠ opMfspr ∧ majorOpcode w ≠ opMtspr := by
  unfold decode
  split
  · rename_i h; simp [h]
  · rename_i hf
    split
    · rename_i ht; simp [ht]
    · rename_i ht; simp [hf, ht]

end

/-- Settles O1: every field of the word that `encode` lays out is read back, the two parts of the immediate
of `l.mtspr` together. -/
theorem decodeOfEncode : Obligations.DecodeOfEncode := by
  intro i
  cases i with
  | mfspr d a k =>
    obtain ⟨hop, hd, ha, hk⟩ := encode_mfspr_fields d a k
    exact decode_eq_mfspr_iff.mpr ⟨hop, hd.symm, ha.symm, hk.symm⟩
  | mtspr a b k =>
    obtain ⟨hop, ha, hb⟩ := encode_mtspr_fields a b k
    exact decode_eq_mtspr_iff.mpr ⟨hop, ha.symm, hb.symm, (encode_mtspr_immediate a b k).symm⟩

/-- Settles O2: bit by bit, each bit of a word that decodes stands in exactly one field of its format. -/
theorem encodeOfDecode : Obligations.EncodeOfDecode := by
  intro w i h
  refine BitVec.eq_of_getLsbD_eq fun j hj => ?_
  cases i with
  | mfspr d a k =>
    obtain ⟨hop, rfl, rfl, rfl⟩ := decode_eq_mfspr_iff.mp h
    rw [getLsbD_encode_mfspr, ← hop, majorOpcode]
    split_ifs <;>
      simp (disch := omega) only [getLsbD_takeBits, decide_eq_true, Bool.true_and, Nat.add_sub_cancel',
        Nat.zero_add]
  | mtspr a b k =>
    obtain ⟨hop, rfl, rfl, rfl⟩ := decode_eq_mtspr_iff.mp h
    rw [getLsbD_encode_mtspr, ← hop, majorOpcode]
    split_ifs <;>
      simp (disch := omega) only [getLsbD_mtspr_immediate, getLsbD_takeBits, if_pos, if_neg, decide_eq_true,
        Bool.true_and, Nat.add_sub_cancel', Nat.sub_add_cancel]

/-- Settles O4: eight closed words, each decoded. -/
theorem tabulatedWordsDecode : Obligations.TabulatedWordsDecode := by
  unfold Obligations.TabulatedWordsDecode
  decide

/-- Settles O5: the immediate is the decoder's, and an extension to 32 bits is sixteen zeros above it. -/
theorem immediateAssembly : Obligations.ImmediateAssembly := by
  refine ⟨fun w d a k h => ?_, fun w a b k h => ?_, fun s a k => ?_⟩
  · obtain ⟨-, -, -, hk⟩ := decode_eq_mfspr_iff.mp h
    exact hk
  · obtain ⟨-, -, -, hk⟩ := decode_eq_mtspr_iff.mp h
    exact hk
  · have hzeros : k.setWidth 32 = 0#16 ++ k := BitVec.setWidth_eq_append (by decide)
    rw [State.sprEa, hzeros]

/-! ### The step that runs the instruction at pc (R100, R197) -/

section
variable {s : State}

theorem runInstruction_of_insn {bs : List Byte} {i : Instr} (hf : s.fetch = .bytes bs)
    (hd : s.decodeAt bs = .insn i) : runInstruction s = exec i s := by
  simp [runInstruction, hf, hd]

theorem runInstruction_of_rejected {bs : List Byte} {why : DecodeReject} (hf : s.fetch = .bytes bs)
    (hd : s.decodeAt bs = .rejected why) : runInstruction s = .refused (.instructionOutsideSpec why) := by
  simp [runInstruction, hf, hd]

theorem State.fetch_of_read {b0 b1 b2 b3 : Byte} (ha : wordAligned s.pc = true)
    (h0 : Memory.read s.mem s.pc.toNat = some b0) (h1 : Memory.read s.mem (s.pc + 1).toNat = some b1)
    (h2 : Memory.read s.mem (s.pc + 2).toNat = some b2) (h3 : Memory.read s.mem (s.pc + 3).toNat = some b3) :
    s.fetch = .bytes [b0, b1, b2, b3] := by
  simp only [State.fetch, ha, if_true, Memory.readWord, h0, h1, h2, h3]

theorem step_of_agenda_nil (hc : configDefect s.cfg = none) (ha : s.agenda = []) :
    step s = runInstruction s := by
  simp [step, hc, ha]

end

/-- Settles O6: what the fetch finds and what it decodes to do not depend on the agenda. -/
theorem stepRunsDecodedInstruction : Obligations.StepRunsDecodedInstruction := by
  intro s b0 b1 b2 b3 i hc hpc h0 h1 h2 h3 hd _
  have hfetch : s.fetch = .bytes [b0, b1, b2, b3] := State.fetch_of_read hpc h0 h1 h2 h3
  refine ⟨fun ha => ?_, fun rest ha => ?_⟩
  · rw [step_of_agenda_nil hc ha]
    exact runInstruction_of_insn hfetch hd
  · have hfetch' : (s.withAgenda rest).fetch = .bytes [b0, b1, b2, b3] := hfetch
    rw [step_of_agenda hc ha]
    exact runInstruction_of_insn hfetch' hd

/-! ### The step that runs a placed word (log 11) -/

theorem State.withFetchWord_toNat (s : State) (w : Word) : s.withFetchWord 32 w.toNat = s.placeWord w := by
  rw [State.withFetchWord, Nat.mod_eq_of_lt w.isLt, BitVec.ofNat_toNat, BitVec.setWidth_eq]

theorem State.placeWord_decodeAt (s : State) (w : Word) :
    (s.placeWord w).decodeAt (wordBytes s.cfg.byteOrder w) = decode w :=
  decodeBytes_wordBytes s.cfg.byteOrder w

/-- The step of a placed word is the processor's own instruction: the placing drops the agenda. -/
theorem step_placeWord {s : State} (hc : configDefect s.cfg = none) (w : Word) :
    step (s.placeWord w) = runInstruction (s.placeWord w) :=
  step_of_agenda_nil hc rfl

/-- A multiple of four rounded down to one is itself. -/
theorem rounded_of_wordAligned {a : Word} (h : wordAligned a = true) : a &&& ~~~3#32 = a := by
  have hzero : takeBits 0 2 a = 0#2 := by simpa [wordAligned] using h
  have hmask : placeBits 0 (-1#2) = 3#32 := by decide
  have hones : 3#32 ||| ~~~3#32 = BitVec.allOnes 32 := by decide
  have hlow : a &&& 3#32 = 0#32 := by rw [← hmask, ← placeBits_takeBits, hzero, placeBits_zero_value]
  calc a &&& ~~~3#32 = a &&& 3#32 ||| a &&& ~~~3#32 := by rw [hlow, BitVec.zero_or]
    _ = a := by rw [← BitVec.and_or_distrib_left, hones, BitVec.and_allOnes]

/-- At an aligned pc the placing of a word changes memory and the agenda alone. -/
theorem State.placeWord_of_wordAligned {s : State} (h : wordAligned s.pc = true) (w : Word) :
    s.placeWord w = (s.withMem (s.placeWord w).mem).withAgenda [] := by
  have hpc : (s.placeWord w).pc = s.pc := rounded_of_wordAligned h
  calc s.placeWord w
      = { (s.withMem (s.placeWord w).mem).withAgenda [] with pc := (s.placeWord w).pc } := rfl
    _ = (s.withMem (s.placeWord w).mem).withAgenda [] := by rw [hpc]; rfl

/-- Settles O7: the fetch finds the placed word's bytes (`State.placeWord_fetch`), which decode to the
instruction that was encoded. -/
theorem placedInstructionRuns : Obligations.PlacedInstructionRuns := by
  intro s i hc
  rw [State.withFetchWord_toNat]
  refine ⟨?_, fun ha => State.placeWord_of_wordAligned ha (encode i)⟩
  rw [step_placeWord hc]
  exact runInstruction_of_insn (s.placeWord_fetch _) ((s.placeWord_decodeAt _).trans (decodeOfEncode i))

/-! ### The two rows of the opcode map (R105) -/

/-- The mask of both rows keeps the major opcode alone, so a row's match word says which one it is. -/
theorem and_tableMask_eq_iff (w : Word) (op : BitVec 6) :
    w &&& 0xFC000000#32 = placeBits 26 op ↔ majorOpcode w = op := by
  have hmask : placeBits 26 (-1#6) = 0xFC000000#32 := by decide
  rw [← hmask, ← placeBits_takeBits]
  refine ⟨fun h => ?_, fun h => congrArg (placeBits 26) h⟩
  calc majorOpcode w = takeBits 26 6 (placeBits 26 (majorOpcode w)) := (takeBits_placeBits _ (by decide)).symm
    _ = takeBits 26 6 (placeBits 26 op) := congrArg (takeBits 26 6) h
    _ = op := takeBits_placeBits _ (by decide)

/-- Settles O3: a word's row is its major opcode, which is what the decoder asks; a word of neither row is
fetched where it was placed, and refused. -/
theorem opcodeMapHasTwoRows : Obligations.OpcodeMapHasTwoRows := by
  have hmatchf : 0xB4000000#32 = placeBits 26 opMfspr := by decide
  have hmatcht : 0xC0000000#32 = placeBits 26 opMtspr := by decide
  refine ⟨fun w => ?_, fun s w hc hf ht => ?_⟩
  · simp only [hmatchf, hmatcht, ne_eq, and_tableMask_eq_iff]
    exact ⟨by simp [decode_eq_mfspr_iff], by simp [decode_eq_mtspr_iff], decode_eq_notSpecified_iff.symm⟩
  · rw [State.withFetchWord_toNat, step_placeWord hc]
    exact runInstruction_of_rejected (s.placeWord_fetch w)
      ((s.placeWord_decodeAt w).trans (decode_eq_notSpecified_iff.mpr ⟨hf, ht⟩))

end Sys2Proof.Machine
end

section
/-! PROOFS. What an arithmetic event that raises leaves (R145, R160), and the destinations that do not exist
or that `R0_POLICY` refuses (O59). -/

namespace Sys2Proof.Machine

/-! ### The destination (R128, R145) -/

section
variable {s t : State}

/-- What a result's write puts where. -/
theorem State.writeResult_readGpr {dest : Option RegNo} {v : Word} (h : s.writeResult dest v = some t) :
    (∀ r, dest ≠ some r → t.readGpr r = s.readGpr r) ∧
    ∀ d, dest = some d →
      (d = 0#5 → s.cfg.policies.r0 = .discard → t.readGpr d = s.readGpr d) ∧
      (d ≠ 0#5 ∨ s.cfg.policies.r0 = .write → t.readGpr d = v) := by
  cases dest with
  | none => cases h; simp
  | some c =>
    rcases State.writeDest_cases h with ⟨rfl, hwrite⟩ | ⟨rfl, hzero, hdiscard⟩
    · refine ⟨fun r hr => State.readGpr_writeGpr_ne s v fun e => hr (e ▸ rfl), fun d hd => ?_⟩
      cases hd
      exact ⟨fun hzero hdiscard => by simp [hwrite hzero] at hdiscard,
        fun _ => State.readGpr_writeGpr_self ..⟩
    · refine ⟨fun _ _ => rfl, fun d hd => ⟨fun _ _ => rfl, fun hw => ?_⟩⟩
      cases hd
      simp [hzero, hdiscard] at hw

theorem State.resultOnExc_of_unwritten (x : ArithStep) (h : s.cfg.policies.resultOnExc = .unwritten) :
    s.resultOnExc x = some s := by
  simp [State.resultOnExc, h]

/-- What `RESULT_ON_EXC` puts where. -/
theorem State.resultOnExc_readGpr {x : ArithStep} (h : s.resultOnExc x = some t) :
    (∀ r, x.dest ≠ some r → t.readGpr r = s.readGpr r) ∧
    ∀ d, x.dest = some d →
      (s.cfg.policies.resultOnExc = .unwritten → t.readGpr d = s.readGpr d) ∧
      (d = 0#5 → s.cfg.policies.r0 = .discard → t.readGpr d = s.readGpr d) ∧
      (d ≠ 0#5 ∨ s.cfg.policies.r0 = .write →
        (s.cfg.policies.resultOnExc = .written → t.readGpr d = x.result) ∧
        (s.cfg.policies.resultOnExc = .unknown → t.readGpr d = Config.draw s.draws)) := by
  cases hp : s.cfg.policies.resultOnExc with
  | written =>
    simp only [State.resultOnExc, hp] at h
    obtain ⟨hother, hdest⟩ := State.writeResult_readGpr h
    refine ⟨hother, fun d hd => ?_⟩
    obtain ⟨hdiscard, hwrite⟩ := hdest d hd
    exact ⟨by simp, hdiscard, fun hw => ⟨fun _ => hwrite hw, by simp⟩⟩
  | unwritten =>
    rw [State.resultOnExc_of_unwritten x hp] at h
    cases h
    simp
  | unknown =>
    simp only [State.resultOnExc, hp] at h
    obtain ⟨hother, hdest⟩ := State.writeResult_readGpr h
    refine ⟨hother, fun d hd => ?_⟩
    obtain ⟨hdiscard, hwrite⟩ := hdest d hd
    exact ⟨by simp, hdiscard, fun hw => ⟨by simp, fun _ => hwrite hw⟩⟩

/-- `R0_POLICY` = refuse leaves no write of register 0. -/
theorem State.writeResult_zero_of_refuse (h : s.cfg.policies.r0 = .refuse) (v : Word) :
    s.writeResult (some 0#5) v = none := by
  simp [State.writeResult, State.writeDest, h]

end

/-! ### An event that raises (R143, R145, R160) -/

theorem State.recordHit_aesr (s : State) (hit : BitVec 7) :
    (s.recordHit hit).aesr = if present s.cfg .aesr then s.aesr ||| hit else s.aesr := by
  unfold State.recordHit
  split <;> rfl

theorem State.recordHit_cfg (s : State) (hit : BitVec 7) : (s.recordHit hit).cfg = s.cfg := by
  obtain ⟨m, hm, -⟩ := State.recordHit_frame s hit
  rw [hm, State.withAesr_cfg]

/-- Everything a raising event leaves but for AESR: its flags, the record and the destination, and then the
entry. -/
theorem arithRaised_of_resultOnExc {s w : State} {x : ArithStep} {rest : List Input} {hit : BitVec 7}
    (h : (((s.withAgenda rest).withArithFlags x).recordHit hit).resultOnExc x = some w) :
    ArithRaised s x rest (w.raise .range none) := by
  obtain ⟨m, hm, -⟩ := State.recordHit_frame ((s.withAgenda rest).withArithFlags x) hit
  rw [hm] at h
  obtain ⟨hother, hdest⟩ := State.resultOnExc_readGpr h
  obtain ⟨g, n, hw⟩ := State.resultOnExc_cases h
  have hvector : w.vectorAddress .range = s.vectorAddress .range := by
    rw [hw]; exact State.withArithFlags_vectorAddress (s.withAgenda rest) x .range
  have hsr (j : Nat) : w.srFlag j = (s.withArithFlags x).srFlag j := by rw [hw]; rfl
  have hflags := State.withArithFlags_srFlag s x
  exact {
    vector := (State.raise_pc w _ _).trans hvector
    noSlot := State.raise_delaySlot ..
    supervisor := State.raise_supervisor ..
    aecr := by rw [State.raise_aecr, hw]; rfl
    evba := by rw [State.raise_evba, hw]; rfl
    memory := fun a => by rw [State.raise_mem, hw]; rfl
    cfg := by rw [State.raise_cfg, hw]; rfl
    agenda := by rw [State.raise_agenda, hw]; rfl
    entered := fun co hco => by
      have hcow : w.cfg.policies.trapEntry = .family co := by rw [hw]; exact hco
      rw [State.raise_family w _ _ hcow]
      exact {
        pc := by rw [hw]; rfl
        address := by rw [hw]; rfl
        carry := (hsr srCY).trans (hflags srCY (by decide))
        overflow := (hsr srOV).trans (hflags srOV (by decide))
        otherFlags := fun j hj hcy hov hfo => by
          rw [← State.srFlag, hsr, hflags j hj, if_neg hfo, if_neg hov, if_neg hcy]
        otherGprs := hother
        result := hdest } }

/-! ### The event, case by case (R141, R143, R147) -/

section
variable {s : State} {x : ArithStep}

theorem arithStep_of_noSuchGpr {d : RegNo} (hx : x.dest = some d) (hd : hasGpr s.cfg d = false) :
    arithStep x s = .refused .noSuchGpr := by
  simp [arithStep, hx, hd]

variable (hd : x.dest.all (hasGpr s.cfg) = true)
include hd

theorem arithStep_of_nothing_raised (h : s.srFlag srOVE = false ∨ s.arithHit x.event = some 0#7) :
    arithStep x s = arithComplete (s.withArithFlags x) x := by
  rcases h with hove | hhit
  · simp [arithStep, hd, hove]
  · simp [arithStep, hd, hhit]

theorem arithStep_of_no_mask (hove : s.srFlag srOVE = true) (h : s.arithHit x.event = none) :
    arithStep x s = .refused .oveWithoutAecr := by
  simp [arithStep, hd, hove, h]

theorem arithStep_of_hit {hit : BitVec 7} (hove : s.srFlag srOVE = true) (h : s.arithHit x.event = some hit)
    (h0 : hit ≠ 0#7) : arithStep x s = arithRaise (s.withArithFlags x) x hit := by
  simp [arithStep, hd, hove, h, h0]

end

/-- From `w`, which the record and the destination leave, the event takes the exception. -/
theorem arithRaise_of_resultOnExc {s w : State} {x : ArithStep} {hit : BitVec 7}
    (h : (s.recordHit hit).resultOnExc x = some w) : arithRaise s x hit = .next (w.raise .range none) := by
  simp [arithRaise, h]

/-! ### Register 0 as the destination, where `R0_POLICY` refuses its write (R128) -/

section
variable {s : State} {x : ArithStep} (hx : x.dest = some 0#5) (hr0 : s.cfg.policies.r0 = .refuse)
include hx hr0

theorem arithComplete_of_refuse : arithComplete s x = .refused .writeToR0 := by
  simp [arithComplete, hx, State.writeResult_zero_of_refuse hr0]

/-- A raising event writes its destination unless `RESULT_ON_EXC` leaves it unwritten (R145). -/
theorem State.resultOnExc_of_refuse (hp : s.cfg.policies.resultOnExc ≠ .unwritten) :
    s.resultOnExc x = none := by
  have hr0' : (s.withDraws (s.draws + 1)).cfg.policies.r0 = .refuse := hr0
  cases hres : s.cfg.policies.resultOnExc with
  | written => simp [State.resultOnExc, hres, hx, State.writeResult_zero_of_refuse hr0]
  | unwritten => exact absurd hres hp
  | unknown => simp [State.resultOnExc, hres, hx, State.writeResult_zero_of_refuse hr0']

theorem arithRaise_of_refuse (hp : s.cfg.policies.resultOnExc ≠ .unwritten) (hit : BitVec 7) :
    arithRaise s x hit = .refused .writeToR0 := by
  rw [← State.recordHit_cfg s hit] at hr0 hp
  simp [arithRaise, State.resultOnExc_of_refuse hx hr0 hp]

end

/-- Settles O59: the destination's number is asked first; register 0 meets `R0_POLICY` only where a value
would be written, so that a raising event which leaves its destination unwritten is like any other. -/
theorem arithmeticDestinationRefusals : Obligations.ArithmeticDestinationRefusals := by
  intro s x rest d hc ha hx
  rw [step_of_agenda hc ha, runInput]
  refine ⟨arithStep_of_noSuchGpr (s := s.withAgenda rest) hx, ?_⟩
  rintro hgpr rfl hr0
  have hd : x.dest.all (hasGpr (s.withAgenda rest).cfg) = true := by simpa [hx] using hgpr
  have hr0' : ((s.withAgenda rest).withArithFlags x).cfg.policies.r0 = .refuse := hr0
  refine ⟨fun h => ?_, arithStep_of_no_mask hd, fun hove hit hhit h0 => ?_⟩
  · exact (arithStep_of_nothing_raised hd h).trans (arithComplete_of_refuse hx hr0')
  · have hraise := arithStep_of_hit hd hove hhit h0
    refine ⟨fun hp => hraise.trans (arithRaise_of_refuse hx hr0' hp hit), fun hp => ?_⟩
    have hw := State.resultOnExc_of_unwritten (s := ((s.withAgenda rest).withArithFlags x).recordHit hit) x
      (by rw [State.recordHit_cfg]; exact hp)
    refine ⟨_, hraise.trans (arithRaise_of_resultOnExc hw), ?_, arithRaised_of_resultOnExc hw⟩
    rw [State.raise_aesr]
    exact State.recordHit_aesr ((s.withAgenda rest).withArithFlags x) hit

end Sys2Proof.Machine
end

section
/-! PROOFS. What `l.mfspr` reads and where it puts it (O19 to O22, O34), what `l.mtspr` to a constant
register leaves (O27), and a read right after a write (O28). -/

namespace Sys2Proof.Machine

/-! ### What the normal end of an access leaves (R131) -/

section
variable (s : State) (n : Nat)

/-- A value put into register `d`, the free-value counter at `n`, and control advanced: everything else is as
it was. -/
theorem State.readInto_frame (d : RegNo) (v : Word) :
    let t := ((s.withDraws n).writeGpr d v).advance
    t.readGpr d = v ∧ SameGprsBut d s t ∧ t.sr = s.sr ∧ SameBlock s t ∧ SameSaved s t ∧ SameMemory s t ∧
      SameRun s t ∧ Advanced s t ∧ t.draws = n :=
  ⟨State.readGpr_writeGpr_self .., fun _ hr => State.readGpr_writeGpr_ne (s.withDraws n) v hr, rfl,
    ⟨rfl, rfl, rfl⟩, ⟨rfl, rfl, rfl⟩, fun _ => rfl, ⟨rfl, rfl⟩, ⟨rfl, rfl⟩, rfl⟩

/-- The free-value counter at `n` and control advanced: everything else is as it was. -/
theorem State.passOver_frame :
    let t := (s.withDraws n).advance
    SameGprs s t ∧ t.sr = s.sr ∧ SameBlock s t ∧ SameSaved s t ∧ SameMemory s t ∧ SameRun s t ∧
      Advanced s t ∧ t.draws = n :=
  ⟨fun _ => rfl, rfl, ⟨rfl, rfl, rfl⟩, ⟨rfl, rfl, rfl⟩, fun _ => rfl, ⟨rfl, rfl⟩, ⟨rfl, rfl⟩, rfl⟩

end

/-! ### The read, and its value's way into x[D] (R123, R124, R128) -/

section
variable {s : State} {r : Spr}

theorem sprRead_of_present (h : present s.cfg r = true) :
    sprRead s r = some (s.image r, s.withDraws (if s.readDraws r then s.draws + 1 else s.draws)) := by
  simp only [sprRead, h, if_true]
  split <;> rfl

theorem sprRead_of_refuse (h : present s.cfg r = false) (ha : s.cfg.policies.absentSpr = .refuse) :
    sprRead s r = none := by
  simp [sprRead, h, ha]

theorem sprRead_of_readZero (h : present s.cfg r = false) (ha : s.cfg.policies.absentSpr = .readZero) :
    sprRead s r = some (0, s.withDraws s.draws) := by
  simp only [sprRead, h, ha]
  rfl

theorem sprRead_of_draw (h : present s.cfg r = false) (ha : s.cfg.policies.absentSpr = .draw) :
    sprRead s r = some (Config.draw s.draws, s.withDraws (s.draws + 1)) := by
  simp [sprRead, h, ha]

/-- Where `ABSENT_SPR_POLICY` gives a value, it is 0 or the next free value. -/
theorem sprRead_of_absent (h : present s.cfg r = false) (ha : s.cfg.policies.absentSpr ≠ .refuse) :
    ∃ n, sprRead s r = some (if s.cfg.policies.absentSpr = .readZero then 0 else Config.draw s.draws,
      s.withDraws n) := by
  cases hp : s.cfg.policies.absentSpr with
  | refuse => exact absurd hp ha
  | readZero => exact ⟨_, sprRead_of_readZero h hp⟩
  | draw => exact ⟨_, sprRead_of_draw h hp⟩

variable {d a : RegNo} {k : SprAddr}

section
variable {v : Word} {n : Nat} (hr : Reaches s [d, a] a k r) (hs : s.supervisor = true)
  (hread : sprRead s r = some (v, s.withDraws n))
include hr hs hread

theorem exec_mfspr_of_writeDest {u : State} (hdest : (s.withDraws n).writeDest d v = some u) :
    exec (.mfspr d a k) s = .next u.advance := by
  have hgate : sprGate s [d, a] a k = .pass r := sprGate_pass_iff.mpr ⟨hr, hs⟩
  simp only [exec, execMfspr, hgate, hread, hdest]

theorem exec_mfspr_of_writeDest_none (hdest : (s.withDraws n).writeDest d v = none) :
    exec (.mfspr d a k) s = .refused .writeToR0 := by
  have hgate : sprGate s [d, a] a k = .pass r := sprGate_pass_iff.mpr ⟨hr, hs⟩
  simp only [exec, execMfspr, hgate, hread, hdest]

/-- Into a register that takes it, the value read is written. -/
theorem exec_mfspr_writes (hd : d = 0#5 → s.cfg.policies.r0 = .write) :
    exec (.mfspr d a k) s = .next ((s.withDraws n).writeGpr d v).advance := by
  refine exec_mfspr_of_writeDest hr hs hread ?_
  by_cases h0 : d = 0#5
  · simp [State.writeDest, h0, hd h0]
  · exact State.writeDest_of_ne _ v h0

end

/-- `R0_POLICY` = refuse: a read into register 0 is refused, whatever was read (R128). -/
theorem exec_mfspr_zero_of_refuse {v : Word} {n : Nat} (hr : Reaches s [0, a] a k r)
    (hs : s.supervisor = true) (hread : sprRead s r = some (v, s.withDraws n))
    (h0 : s.cfg.policies.r0 = .refuse) : exec (.mfspr 0 a k) s = .refused .writeToR0 :=
  exec_mfspr_of_writeDest_none hr hs hread (by simp [State.writeDest, h0])

/-- `R0_POLICY` = discard: the value read is dropped, its free value is not (R128). -/
theorem exec_mfspr_zero_of_discard {v : Word} {n : Nat} (hr : Reaches s [0, a] a k r)
    (hs : s.supervisor = true) (hread : sprRead s r = some (v, s.withDraws n))
    (h0 : s.cfg.policies.r0 = .discard) : exec (.mfspr 0 a k) s = .next (s.withDraws n).advance :=
  exec_mfspr_of_writeDest hr hs hread (by simp [State.writeDest, h0])

theorem exec_mfspr_of_sprRead_none (hr : Reaches s [d, a] a k r) (hs : s.supervisor = true)
    (hread : sprRead s r = none) : exec (.mfspr d a k) s = .refused .sprAbsent := by
  have hgate : sprGate s [d, a] a k = .pass r := sprGate_pass_iff.mpr ⟨hr, hs⟩
  simp only [exec, execMfspr, hgate, hread]

theorem exec_mtspr_absent {b : RegNo} (hr : Reaches s [a, b] a k r) (hs : s.supervisor = true)
    (hp : present s.cfg r = false) : exec (.mtspr a b k) s = sprStoreAbsent s := by
  have hgate : sprGate s [a, b] a k = .pass r := sprGate_pass_iff.mpr ⟨hr, hs⟩
  simp only [exec, execMtspr, hgate, hp, Bool.false_eq_true, if_false]

end

/-! ### l.mfspr of a present register (O19, O20, O34) -/

/-- Settles O19: the image is read, and written into a register that is not 0. -/
theorem mfsprReadsPresentRegister : Obligations.MfsprReadsPresentRegister :=
  fun s d _ _ r hr hs hp hd =>
    ⟨_, exec_mfspr_writes hr hs (sprRead_of_present hp) fun h0 => absurd h0 hd,
      State.readInto_frame s _ d (s.image r)⟩

/-- Settles O20: the image is read before `R0_POLICY` is asked, so its free value is taken under discard
too. -/
theorem mfsprToRegisterZero : Obligations.MfsprToRegisterZero := by
  intro s a k r hr hs hp
  have hread := sprRead_of_present hp
  refine ⟨exec_mfspr_zero_of_refuse hr hs hread, fun h0 => ?_, fun h0 => ?_⟩
  · exact ⟨_, exec_mfspr_writes hr hs hread fun _ => h0, State.readInto_frame s _ 0 (s.image r)⟩
  · exact ⟨_, exec_mfspr_zero_of_discard hr hs hread h0, State.passOver_frame s _⟩

/-- Settles O34: under truncate the high bits are no obstacle to reaching the register, which its own
address names (`sprNumbersNameRegisters`). -/
theorem truncatedAddressReachesRegister : Obligations.TruncatedAddressReachesRegister := by
  intro s d a k r hc hgd hga hslot hhigh _ haddr hs hp hd
  obtain ⟨-, -, -, -, -, -, -, -, hinj⟩ := (configDefect_eq_none s.cfg).mp hc
  obtain ⟨hfound, -⟩ := sprNumbersNameRegisters s.cfg.sprNum hinj
  have hreach : Reaches s [d, a] a k r :=
    { config := hc
      registers := by simp [hgd, hga]
      slot := .inl hslot
      address := .inr hhigh
      named := by
        simp only [State.sprNamed, sprEaAddr, takeBits, haddr]
        exact hfound r }
  obtain ⟨t, hexec, hread, -⟩ := mfsprReadsPresentRegister s d a k r hreach hs hp hd
  exact ⟨t, hexec, hread⟩

/-! ### An absent register (O21, O22) -/

/-- An implementation that announces no UPR announces no unit in it either (R75), so that its image is 0. -/
theorem uprImage_of_not_up (l : UprLayout) {c : Config} (h : uprConsistent c = true)
    (hup : c.upr.up = false) : uprImage l c.upr = 0#32 := by
  rw [(uprConsistent_iff c).mp h hup]
  simp [uprImage, placeFlag, placeBits_zero_value]

/-- Settles O21: the policy decides what is read and whether the store is refused; UPR is present always, and
where its UP is 0 the consistency check (R75) leaves no other field set. -/
theorem absentRegisterAccess : Obligations.AbsentRegisterAccess := by
  refine ⟨fun s d a k r hr hs hp => ⟨fun ha => ?_, fun ha hd => ?_, fun ha hd => ?_⟩,
    fun s a b k r hr hs hp => ⟨fun ha => ?_, fun ha => ?_⟩, fun s hc => ⟨rfl, fun hup => ?_⟩⟩
  · -- read, refused
    exact exec_mfspr_of_sprRead_none hr hs (sprRead_of_refuse hp ha)
  · -- read of 0
    obtain ⟨hv, hother, hsr, hblock, hsaved, hmem, hrun, hadv, -⟩ := State.readInto_frame s s.draws d 0
    exact ⟨_, exec_mfspr_writes hr hs (sprRead_of_readZero hp ha) fun h0 => absurd h0 hd,
      hv, hother, hsr, hblock, hsaved, hmem, hrun, hadv⟩
  · -- read of a free value
    obtain ⟨hv, hother, hsr, hblock, hsaved, hmem, hrun, hadv, hdraws⟩ :=
      State.readInto_frame s (s.draws + 1) d (Config.draw s.draws)
    exact ⟨_, exec_mfspr_writes hr hs (sprRead_of_draw hp ha) fun h0 => absurd h0 hd,
      hv, hdraws, hother, hsr, hblock, hsaved, hmem, hrun, hadv⟩
  · -- write, refused
    rw [exec_mtspr_absent hr hs hp]
    simp [sprStoreAbsent, ha]
  · -- write without effect
    obtain ⟨hgprs, hsr, hblock, hsaved, hmem, hrun, hadv, -⟩ := State.passOver_frame s s.draws
    have hstore : sprStoreAbsent s = .next (s.withDraws s.draws).advance := by
      cases hpol : s.cfg.policies.absentSpr with
      | refuse => exact absurd hpol ha
      | readZero | draw => simp only [sprStoreAbsent, hpol]; rfl
    exact ⟨_, (exec_mtspr_absent hr hs hp).trans hstore, hgprs, hsr, hblock, hsaved, hmem, hrun, hadv⟩
  · -- UPR
    obtain ⟨-, -, -, -, hupr, -⟩ := (configDefect_eq_none s.cfg).mp hc
    exact uprImage_of_not_up _ hupr hup

/-- Settles O22: the policy's value is read before `R0_POLICY` is asked. -/
theorem absentReadToRegisterZero : Obligations.AbsentReadToRegisterZero := by
  intro s a k r hr hs hp ha
  obtain ⟨n, hread⟩ := sprRead_of_absent hp ha
  refine ⟨exec_mfspr_zero_of_refuse hr hs hread, fun h0 => ?_⟩
  cases hpol : s.cfg.policies.r0 with
  | refuse => exact absurd hpol h0
  | write =>
    obtain ⟨hv, hother, hsr, hblock, hsaved, hmem, hrun, hadv, -⟩ := State.readInto_frame s n 0 _
    exact ⟨_, exec_mfspr_writes hr hs hread fun _ => hpol, hother, hsr, hblock, hsaved, hmem, hrun, hadv, hv⟩
  | discard =>
    obtain ⟨hgprs, hsr, hblock, hsaved, hmem, hrun, hadv, -⟩ := State.passOver_frame s n
    exact ⟨_, exec_mfspr_zero_of_discard hr hs hread hpol, fun x _ => hgprs x, hsr, hblock, hsaved, hmem,
      hrun, hadv, hgprs 0⟩

/-! ### l.mtspr to a constant register, and a read after a write (O27, O28) -/

section
variable {s : State} {r : Spr} (hro : readOnly r = true)
include hro

theorem sprStore_of_ignore (h : s.cfg.policies.roWrite = .ignore) (v : Word) :
    sprStore s r v = .next s.advance := by
  cases r with
  | evbar | aecr | aesr | isr i => cases hro
  | _ => simp only [sprStore, h]

theorem sprStore_of_refuse (h : s.cfg.policies.roWrite = .refuse) (v : Word) :
    sprStore s r v = .refused .writeToReadOnlySpr := by
  cases r with
  | evbar | aecr | aesr | isr i => cases hro
  | _ => simp only [sprStore, h]

end

/-- Settles O27: the store of a read-only register is its policy. -/
theorem mtsprToReadOnlyRegister : Obligations.MtsprToReadOnlyRegister := by
  intro s a b k r hr hs hp hro
  have hexec := exec_mtspr_present hr hs hp
  refine ⟨fun h => ?_, fun h => ?_⟩
  · exact ⟨_, hexec.trans (sprStore_of_ignore hro h _), State.passOver_frame s s.draws⟩
  · exact hexec.trans (sprStore_of_refuse hro h _)

/-- A value written to AECR or AESR reads back as its seven low bits (R60, R64). -/
theorem arithImage_arithBits_default (v : Word) :
    arithImage defaultLayout.arith (arithBits defaultLayout.arith v) = v &&& 0x0000007F#32 := by
  obtain ⟨-, h⟩ := writtenFieldsReadBackInAnyLayout defaultLayout v
  have hmask : arithImage defaultLayout.arith (-1#7) = 0x0000007F#32 := by decide
  rw [h, hmask]

/-- A store to a present register leaves the implementation. -/
theorem sprStore_next_cfg {s t : State} {r : Spr} {v : Word} (h : sprStore s r v = .next t) :
    t.cfg = s.cfg := by
  rcases sprStore_next h with ⟨-, rfl⟩ | ⟨-, rfl⟩ | ⟨-, rfl⟩ | ⟨-, -, rfl⟩ <;> rfl

theorem State.advance_image (s : State) (r : Spr) : s.advance.image r = s.image r := by
  cases r <;> rfl

/-- What a register holds after a store to it (R130). -/
theorem sprStore_image {s t : State} {r : Spr} {v : Word} (hl : s.cfg.layout = defaultLayout)
    (h : sprStore s r v = .next t) :
    (r = .evbar → t.image r = v &&& 0xFFFFE000#32) ∧ (r = .aecr → t.image r = v &&& 0x0000007F#32) ∧
      (r = .aesr → t.image r = v &&& 0x0000007F#32) ∧ (readOnly r = true → t.image r = s.image r) := by
  rcases sprStore_next h with ⟨rfl, rfl⟩ | ⟨rfl, rfl⟩ | ⟨rfl, rfl⟩ | ⟨hro, -, rfl⟩
  · simp [State.image, hl, evbarImage_evbaBits_default, readOnly]
  · simp [State.image, hl, arithImage_arithBits_default, readOnly]
  · simp [State.image, hl, arithImage_arithBits_default, readOnly]
  · refine ⟨?_, ?_, ?_, fun _ => s.advance_image r⟩ <;> (rintro rfl; cases hro)

/-- Settles O28: the store keeps presence and mode, so the read completes with the image that
`sprStore_image` gives. -/
theorem readAfterWrite : Obligations.ReadAfterWrite := by
  intro s t a b a' d k k' r hl hs hp hd hr hexec hr'
  have hstore : sprStore s r (s.readGpr b) = .next t := (exec_mtspr_present hr hs hp).symm.trans hexec
  have hpt : present t.cfg r = true := by rw [sprStore_next_cfg hstore]; exact hp
  obtain ⟨hsr, -⟩ := sprStore_next_control hstore
  have hst : t.supervisor = true := by rw [State.supervisor, State.srFlag, hsr]; exact hs
  obtain ⟨u, hread, hu, -⟩ := mfsprReadsPresentRegister t d a' k' r hr' hst hpt hd
  refine ⟨u, hread, ?_⟩
  rw [hu]
  exact sprStore_image hl hstore

end Sys2Proof.Machine
end

section
/-! PROOFS. The checks before privilege (O32, O33), an access in user mode (O30, O31), and memory over an
instruction and over every step (O29, O36). -/

namespace Sys2Proof.Machine

/-! ### An instruction and its gate (R127) -/

/-- Every instruction is an access: it names a base register and an immediate. -/
theorem Instr.exists_access (i : Instr) :
    ∃ a k, (∃ d, i = .mfspr d a k) ∨ (∃ b, i = .mtspr a b k) := by
  cases i with
  | mfspr d a k => exact ⟨a, k, .inl ⟨d, rfl⟩⟩
  | mtspr a b k => exact ⟨a, k, .inr ⟨b, rfl⟩⟩

/-- Where the gate answers itself, that is the instruction's outcome. -/
theorem exec_of_sprGate_done {s : State} {i : Instr} {a : RegNo} {k : SprAddr} {o : Result}
    (hi : (∃ d, i = .mfspr d a k) ∨ (∃ b, i = .mtspr a b k)) (h : sprGate s i.registers a k = .done o) :
    exec i s = o := by
  rcases hi with ⟨d, rfl⟩ | ⟨b, rfl⟩
  · have h' : sprGate s [d, a] a k = .done o := h
    simp only [exec, execMfspr, h']
  · have h' : sprGate s [a, b] a k = .done o := h
    simp only [exec, execMtspr, h']

/-! ### The checks before privilege (O32, O33) -/

section
variable {s : State} {used : List RegNo} {a : RegNo} {k : SprAddr} (hc : configDefect s.cfg = none)
include hc

theorem sprGate_of_noSuchGpr (h : used.all (hasGpr s.cfg) = false) :
    sprGate s used a k = .done (.refused .noSuchGpr) := by
  simp only [sprGate, hc, h, Bool.not_false, if_true]

variable (hg : used.all (hasGpr s.cfg) = true)
include hg

theorem sprGate_of_inDelaySlot (hd : s.delaySlot ≠ none) (hp : s.cfg.policies.delaySlot = .refuse) :
    sprGate s used a k = .done (.refused .inDelaySlot) := by
  have hslot : s.delaySlot.isSome = true := Option.isSome_iff_ne_none.mpr hd
  simp [sprGate, hc, hg, hslot, hp]

variable (hd : s.delaySlot = none ∨ s.cfg.policies.delaySlot = .execute)
include hd

theorem sprGate_of_outOfRange (ha : (s.sprEa a k).extractLsb' 16 16 ≠ 0#16)
    (hp : s.cfg.policies.highAddr = .refuse) :
    sprGate s used a k = .done (.refused .sprAddressOutOfRange) := by
  have hslot : (s.delaySlot.isSome && s.cfg.policies.delaySlot == .refuse) = false := by
    rcases hd with hd | hd <;> simp [hd]
  have hfits : sprEaFits (s.sprEa a k) = false := by simpa [sprEaFits, takeBits] using ha
  simp [sprGate, hc, hg, hslot, hfits, hp]

theorem sprGate_of_outsideSpec
    (ha : (s.sprEa a k).extractLsb' 16 16 = 0#16 ∨ s.cfg.policies.highAddr = .truncate)
    (hn : regAt s.cfg.sprNum ((s.sprEa a k).extractLsb' 0 16) = none) :
    sprGate s used a k = .done (.refused .sprOutsideSpec) := by
  have hslot : (s.delaySlot.isSome && s.cfg.policies.delaySlot == .refuse) = false := by
    rcases hd with hd | hd <;> simp [hd]
  have hrange : (!sprEaFits (s.sprEa a k) && s.cfg.policies.highAddr == .refuse) = false := by
    rcases ha with ha | ha <;> simp [sprEaFits, takeBits, ha]
  have hnamed : s.sprNamed a k = none := hn
  simp [sprGate, hc, hg, hslot, hrange, hnamed]

end

/-- Settles O32: each refusal is the gate's, and an instruction is well formed where all of its registers
exist. -/
theorem failingCheckNamesTheStop : Obligations.FailingCheckNamesTheStop := by
  intro s i a k hi hc
  refine ⟨fun hg => ?_, fun hg hd hp => ?_, fun hg hd => ⟨fun ha hp => ?_, fun ha hn => ?_⟩⟩
  · exact exec_of_sprGate_done hi (sprGate_of_noSuchGpr hc hg)
  · exact exec_of_sprGate_done hi (sprGate_of_inDelaySlot hc hg hd hp)
  · exact exec_of_sprGate_done hi (sprGate_of_outOfRange hc hg hd ha hp)
  · exact exec_of_sprGate_done hi (sprGate_of_outsideSpec hc hg hd ha hn)

/-- Settles O33: SR's address fits 16 bits and, `SPRNUM` being injective, is no register of the chapter
(`sprNumbersNameRegisters`). -/
theorem srIsNotAccessible : Obligations.SrIsNotAccessible := by
  intro s i a k hi hc hg hd hea
  obtain ⟨-, -, -, -, -, -, -, -, hinj⟩ := (configDefect_eq_none s.cfg).mp hc
  obtain ⟨-, -, hsr⟩ := sprNumbersNameRegisters s.cfg.sprNum hinj
  have hhigh : (s.sprEa a k).extractLsb' 16 16 = 0#16 := by
    rw [hea]; apply BitVec.eq_of_getLsbD_eq; intro j hj; simp
  have hlow : (s.sprEa a k).extractLsb' 0 16 = s.cfg.sprNum.sr := by
    rw [hea]; apply BitVec.eq_of_getLsbD_eq; intro j hj; simp [hj]; omega
  exact exec_of_sprGate_done hi
    (sprGate_of_outsideSpec hc hg (.inl hd) (.inl hhigh) (by rw [hlow]; exact hsr))

/-! ### An access in user mode (O30) -/

/-- Settles O30: the gate ends the access as `USER_SPR_POLICY` says, and the exception keeps what
`State.raise` keeps. -/
theorem userModeOutcome : Obligations.UserModeOutcome := by
  intro s i a k r hi hr hs
  have hexec : exec i s = userSprOutcome s := exec_of_sprGate_done hi (sprGate_user hr hs)
  refine ⟨fun hp => ?_, fun hp => ?_, fun hp => ?_⟩
  · rw [hexec, userSprOutcome, hp]
  · rw [hexec, userSprOutcome, hp]
  · refine ⟨_, by rw [hexec, userSprOutcome, hp], rfl, State.raise_pc .., State.raise_supervisor ..,
      ⟨State.raise_evba .., State.raise_aecr .., State.raise_aesr ..⟩, fun _ => ?_,
      ⟨State.raise_cfg .., State.raise_agenda ..⟩⟩
    rw [State.raise_mem]

/-! ### Two states that the checks do not tell apart -/

/-- Two states agree in everything the checks of R127 read. -/
structure SameChecked (s s' : State) : Prop where
  cfg : s'.cfg = s.cfg
  gprs : SameGprs s s'
  delaySlot : s'.delaySlot = s.delaySlot
  sr : s'.sr = s.sr

/-- The gate answers alike in both: it passes, refuses by one name, or ends an access in user mode, each as
its own state has it. -/
theorem sprGate_of_sameChecked {s s' : State} (h : SameChecked s s') (used : List RegNo) (a : RegNo)
    (k : SprAddr) :
    (∃ r, sprGate s used a k = .pass r ∧ sprGate s' used a k = .pass r) ∨
      (∃ q, sprGate s used a k = .done (.refused q) ∧ sprGate s' used a k = .done (.refused q)) ∨
      (sprGate s used a k = .done (userSprOutcome s) ∧ sprGate s' used a k = .done (userSprOutcome s')) := by
  have hea : s'.sprEa a k = s.sprEa a k := by rw [State.sprEa, State.sprEa, h.gprs a]
  have hnamed : s'.sprNamed a k = s.sprNamed a k := by rw [State.sprNamed, State.sprNamed, hea, h.cfg]
  have hmode : s'.supervisor = s.supervisor := by
    rw [State.supervisor, State.supervisor, State.srFlag, State.srFlag, h.sr]
  simp only [sprGate, h.cfg, h.delaySlot, hea, hnamed, hmode]
  split
  · exact .inr (.inl ⟨_, rfl, rfl⟩)
  split
  · exact .inr (.inl ⟨_, rfl, rfl⟩)
  split
  · exact .inr (.inl ⟨_, rfl, rfl⟩)
  split
  · exact .inr (.inl ⟨_, rfl, rfl⟩)
  split
  · exact .inr (.inl ⟨_, rfl, rfl⟩)
  split
  · exact .inl ⟨_, rfl, rfl⟩
  · exact .inr (.inr ⟨rfl, rfl⟩)

/-! ### User mode learns nothing of the block (O31) -/

/-- In user mode both states see one refusal, or the outcome that `USER_SPR_POLICY` gives each. -/
theorem exec_user_of_sameChecked {s s' : State} (h : SameChecked s s') (hs : s.supervisor = false)
    (i : Instr) :
    (∃ q, exec i s = .refused q ∧ exec i s' = .refused q) ∨
      (exec i s = userSprOutcome s ∧ exec i s' = userSprOutcome s') := by
  obtain ⟨a, k, hi⟩ := Instr.exists_access i
  rcases sprGate_of_sameChecked h i.registers a k with ⟨r, hpass, -⟩ | ⟨q, hq, hq'⟩ | ⟨ho, ho'⟩
  · obtain ⟨-, hsup⟩ := sprGate_pass_iff.mp hpass
    rw [hs] at hsup
    cases hsup
  · exact .inl ⟨q, exec_of_sprGate_done hi hq, exec_of_sprGate_done hi hq'⟩
  · exact .inr ⟨exec_of_sprGate_done hi ho, exec_of_sprGate_done hi ho'⟩

/-- `s` with other contents of EVBA, AECR and AESR. -/
def State.withBlock (s : State) (e : BitVec 19) (c m : BitVec 7) : State :=
  { s with evba := e, aecr := c, aesr := m }

theorem State.withBlock_sameChecked (s : State) (e : BitVec 19) (c m : BitVec 7) :
    SameChecked s (s.withBlock e c m) :=
  ⟨rfl, fun _ => rfl, rfl, rfl⟩

/-- An exception saves and clears nothing of the block, which moves its vector alone (R150, R160). -/
theorem State.raise_withBlock (s : State) (e : BitVec 19) (c m : BitVec 7) (x : ExceptionKind)
    (ea : Option Word) :
    (s.withBlock e c m).raise x ea =
      ((s.raise x ea).withBlock e c m).goTo ((s.withBlock e c m).vectorAddress x) := by
  cases h : s.cfg.policies.trapEntry with
  | family co =>
    rw [State.raise_family s x ea h, State.raise_family (s.withBlock e c m) x ea h]
    rfl
  | leftOpen =>
    rw [State.raise_leftOpen s x ea h, State.raise_leftOpen (s.withBlock e c m) x ea h]
    simp only [State.withBlock, State.goTo]

/-- Settles O31: the checks read nothing of the block, and what ends the access leaves no trace of it but
the vector. -/
theorem userModeLearnsNothing : Obligations.UserModeLearnsNothing := by
  intro i s e c m hs
  have hblock : ((s.withEvba e).withAecr c).withAesr m = s.withBlock e c m := rfl
  rw [hblock]
  rcases exec_user_of_sameChecked (s.withBlock_sameChecked e c m) hs i with ⟨q, hq, hq'⟩ | ⟨ho, ho'⟩
  · rw [hq, hq']
  · have hpol : (s.withBlock e c m).cfg.policies.userSpr = s.cfg.policies.userSpr := rfl
    rw [ho, ho', userSprOutcome, userSprOutcome, hpol]
    cases s.cfg.policies.userSpr with
    | fault => rfl
    | refuse => rfl
    | illegalInstruction =>
      simp only [State.raise_withBlock]
      exact ⟨rfl, rfl, ⟨rfl, rfl, rfl⟩, rfl, rfl, (State.raise_delaySlot ..).symm, ⟨rfl, rfl⟩, rfl, rfl, rfl⟩

/-! ### Memory and the two instructions (O29, O36) -/

section
variable (s : State) (m : Memory)

theorem State.withMem_sameChecked : SameChecked s (s.withMem m) :=
  ⟨rfl, fun _ => rfl, rfl, rfl⟩

theorem userSprOutcome_withMem :
    userSprOutcome (s.withMem m) = mapNext (·.withMem m) (userSprOutcome s) := by
  have hraise : (s.withMem m).raise .illegalInstruction none =
      (s.raise .illegalInstruction none).withMem m := by
    cases h : s.cfg.policies.trapEntry with
    | family co => rw [State.raise_family s _ _ h, State.raise_family (s.withMem m) _ _ h]; rfl
    | leftOpen => rw [State.raise_leftOpen s _ _ h, State.raise_leftOpen (s.withMem m) _ _ h]; rfl
  rw [userSprOutcome, userSprOutcome, State.withMem_cfg, hraise]
  cases s.cfg.policies.userSpr <;> rfl

theorem sprRead_withMem (r : Spr) :
    sprRead (s.withMem m) r = (sprRead s r).map fun vt => (vt.1, vt.2.withMem m) := by
  have himage : (s.withMem m).image r = s.image r := by cases r <;> rfl
  have hdraws : (s.withMem m).readDraws r = s.readDraws r := by cases r <;> rfl
  cases hp : present s.cfg r with
  | true =>
    rw [sprRead_of_present hp, sprRead_of_present (s := s.withMem m) hp, himage, hdraws]
    rfl
  | false =>
    cases ha : s.cfg.policies.absentSpr with
    | refuse => rw [sprRead_of_refuse hp ha, sprRead_of_refuse (s := s.withMem m) hp ha]; rfl
    | readZero => rw [sprRead_of_readZero hp ha, sprRead_of_readZero (s := s.withMem m) hp ha]; rfl
    | draw => rw [sprRead_of_draw hp ha, sprRead_of_draw (s := s.withMem m) hp ha]; rfl

theorem State.writeDest_withMem (d : RegNo) (v : Word) :
    (s.withMem m).writeDest d v = (s.writeDest d v).map (·.withMem m) := by
  by_cases hd : d = 0#5
  · cases hp : s.cfg.policies.r0 <;> simp [State.writeDest, hd, hp]; rfl
  · simp only [State.writeDest_of_ne _ _ hd]; rfl

theorem sprStore_withMem (r : Spr) (v : Word) :
    sprStore (s.withMem m) r v = mapNext (·.withMem m) (sprStore s r v) := by
  cases hro : readOnly r with
  | true =>
    cases h : s.cfg.policies.roWrite with
    | ignore => rw [sprStore_of_ignore hro h, sprStore_of_ignore (s := s.withMem m) hro h]; rfl
    | refuse => rw [sprStore_of_refuse hro h, sprStore_of_refuse (s := s.withMem m) hro h]; rfl
  | false =>
    cases r with
    | evbar | aecr | aesr | isr i => rfl
    | _ => cases hro

theorem sprStoreAbsent_withMem :
    sprStoreAbsent (s.withMem m) = mapNext (·.withMem m) (sprStoreAbsent s) := by
  rw [sprStoreAbsent, sprStoreAbsent, State.withMem_cfg]
  cases s.cfg.policies.absentSpr <;> rfl

theorem execMfspr_withMem_of_pass {d a : RegNo} {k : SprAddr} {r : Spr}
    (h : sprGate s [d, a] a k = .pass r) (h' : sprGate (s.withMem m) [d, a] a k = .pass r) :
    execMfspr d a k (s.withMem m) = mapNext (·.withMem m) (execMfspr d a k s) := by
  simp only [execMfspr, h, h', sprRead_withMem]
  rcases sprRead s r with _ | ⟨v, t⟩
  · rfl
  · simp only [Option.map_some, State.writeDest_withMem]
    cases t.writeDest d v <;> rfl

theorem execMtspr_withMem_of_pass {a b : RegNo} {k : SprAddr} {r : Spr}
    (h : sprGate s [a, b] a k = .pass r) (h' : sprGate (s.withMem m) [a, b] a k = .pass r) :
    execMtspr a b k (s.withMem m) = mapNext (·.withMem m) (execMtspr a b k s) := by
  simp only [execMtspr, h, h', sprStore_withMem, sprStoreAbsent_withMem, State.withMem_cfg,
    State.withMem_readGpr]
  split <;> rfl

/-- With another memory an instruction does the same and leaves that memory. -/
theorem exec_withMem (i : Instr) : exec i (s.withMem m) = mapNext (·.withMem m) (exec i s) := by
  obtain ⟨a, k, hi⟩ := Instr.exists_access i
  rcases sprGate_of_sameChecked (s.withMem_sameChecked m) i.registers a k with
    ⟨r, h, h'⟩ | ⟨q, h, h'⟩ | ⟨h, h'⟩
  · rcases hi with ⟨d, rfl⟩ | ⟨b, rfl⟩
    · exact execMfspr_withMem_of_pass s m h h'
    · exact execMtspr_withMem_of_pass s m h h'
  · rw [exec_of_sprGate_done hi h, exec_of_sprGate_done hi h']
    rfl
  · rw [exec_of_sprGate_done hi h, exec_of_sprGate_done hi h']
    exact userSprOutcome_withMem s m

end

/-! ### The frame in supervisor mode (O29) -/

/-- An `l.mfspr` that completes in supervisor mode puts a value into x[D], or drops it. -/
theorem execMfspr_next_supervisor {s t : State} {d a : RegNo} {k : SprAddr} (hs : s.supervisor = true)
    (h : execMfspr d a k s = .next t) :
    ∃ n, (∃ v, t = ((s.withDraws n).writeGpr d v).advance) ∨ t = (s.withDraws n).advance := by
  rcases execMfspr_next h with ⟨r, v, u, w, -, -, hread, hdest, rfl⟩ | ⟨huser, -⟩
  · have hu := sprRead_frame hread
    rw [hu] at hdest
    rcases State.writeDest_cases hdest with ⟨rfl, -⟩ | ⟨rfl, -⟩
    · exact ⟨_, .inl ⟨v, rfl⟩⟩
    · exact ⟨_, .inr rfl⟩
  · rw [hs] at huser
    cases huser

/-- An `l.mtspr` that completes in supervisor mode advances, with at most one register of the block
written. -/
theorem execMtspr_next_supervisor {s t : State} {a b : RegNo} {k : SprAddr} (hs : s.supervisor = true)
    (h : execMtspr a b k s = .next t) :
    ∃ e c m, t = (s.withBlock e c m).advance ∧
      ((c = s.aecr ∧ m = s.aesr) ∨ (e = s.evba ∧ m = s.aesr) ∨ (e = s.evba ∧ c = s.aecr)) := by
  rcases execMtspr_next h with ⟨r, -, -, -, hstore⟩ | ⟨-, -, -, -, -, rfl⟩ | ⟨huser, -⟩
  · rcases sprStore_next hstore with ⟨-, rfl⟩ | ⟨-, rfl⟩ | ⟨-, rfl⟩ | ⟨-, -, rfl⟩
    · exact ⟨evbaBits s.cfg.layout (s.readGpr b), s.aecr, s.aesr, rfl, .inl ⟨rfl, rfl⟩⟩
    · exact ⟨s.evba, arithBits s.cfg.layout.arith (s.readGpr b), s.aesr, rfl, .inr (.inl ⟨rfl, rfl⟩)⟩
    · exact ⟨s.evba, s.aecr, arithBits s.cfg.layout.arith (s.readGpr b), rfl, .inr (.inr ⟨rfl, rfl⟩)⟩
    · exact ⟨s.evba, s.aecr, s.aesr, rfl, .inl ⟨rfl, rfl⟩⟩
  · exact ⟨s.evba, s.aecr, s.aesr, rfl, .inl ⟨rfl, rfl⟩⟩
  · rw [hs] at huser
    cases huser

/-- Settles O29: the two forms of a completed read, the one form of a completed write, and
`exec_withMem`. -/
theorem sprAccessFrame : Obligations.SprAccessFrame := by
  refine ⟨fun s t d a k hs h => ?_, fun s t a b k hs h => ?_, fun i s m => ?_⟩
  · obtain ⟨n, ⟨v, rfl⟩ | rfl⟩ := execMfspr_next_supervisor hs h
    · obtain ⟨-, hother, hsr, hblock, hsaved, hmem, hrun, hadv, -⟩ := State.readInto_frame s n d v
      exact ⟨hother, hblock, hsr, hsaved, hmem, hrun, hadv⟩
    · obtain ⟨hgprs, hsr, hblock, hsaved, hmem, hrun, hadv, -⟩ := State.passOver_frame s n
      exact ⟨fun r _ => hgprs r, hblock, hsr, hsaved, hmem, hrun, hadv⟩
  · obtain ⟨e, c, m, rfl, hone⟩ := execMtspr_next_supervisor hs h
    exact ⟨fun _ => rfl, rfl, ⟨rfl, rfl, rfl⟩, fun _ => rfl, ⟨rfl, rfl⟩, ⟨rfl, rfl⟩, hone⟩
  · rw [exec_withMem]
    cases exec i s <;> rfl

/-! ### Memory over every step (O36) -/

/-- Settles O36: whatever kind of step it is (`step_cases`), its memory is the one before. -/
theorem noStepWritesMemory : Obligations.NoStepWritesMemory := by
  intro s t h a
  obtain ⟨-, -, hmem, -⟩ := step_cases h
  rw [hmem]

end Sys2Proof.Machine
end

section
/-! PROOFS. The conditions of an arithmetic event from its operands (O43, O44), and events that raise nothing
or raise, with AECR and without it (O45 to O47). -/

namespace Sys2Proof.Machine

/-! ### The seven conditions (R141) -/

/-- The conditions of an event as a whole: those of its class, from its flags. -/
theorem conditions_eq (e : ArithEvent) :
    conditions e = match e.cls with
      | .addSub => 0#5 ++ BitVec.ofBool e.ov ++ BitVec.ofBool e.cy
      | .mul => 0#3 ++ BitVec.ofBool e.ov ++ BitVec.ofBool e.cy ++ 0#2
      | .divSigned => if e.dbz && e.ov then 0x10#7 else 0#7
      | .divUnsigned => if e.dbz && e.cy then 0x10#7 else 0#7
      | .mac => BitVec.ofBool e.ov ++ BitVec.ofBool e.cy ++ 0#5 := by
  obtain ⟨c, cy, ov, dbz⟩ := e
  cases c <;> revert cy ov dbz <;> decide

/-- An addition or a subtraction has its two flags for its only conditions. -/
theorem conditions_addSub_bits {e : ArithEvent} (h : e.cls = .addSub) :
    (conditions e).getLsbD 0 = e.cy ∧ (conditions e).getLsbD 1 = e.ov ∧
      ∀ j, 2 ≤ j → (conditions e).getLsbD j = false := by
  obtain ⟨hcy, hov, -⟩ := conditions_bits e
  refine ⟨by simpa [h] using hcy, by simpa [h] using hov, fun j hj => ?_⟩
  simp only [conditions_eq, h]
  rw [BitVec.getLsbD_append, BitVec.getLsbD_append, if_neg (by omega), if_neg (by omega),
    BitVec.getLsbD_zero]

/-! ### What the flags of an event say of its operands (R142) -/

theorem unsignedOverflow_iff {w : Nat} {n : Int} : unsignedOverflow w n = true ↔ n < 0 ∨ 2 ^ w ≤ n := by
  simp [unsignedOverflow]

theorem signedOverflow_iff {w : Nat} {n : Int} :
    signedOverflow w n = true ↔ n < -(2 ^ (w - 1)) ∨ 2 ^ (w - 1) ≤ n := by
  simp [signedOverflow]

/-- A sum of naturals is never below 0, so only a carry out of the top bit is left. -/
theorem unsignedOverflow_natCast {w n : Nat} : unsignedOverflow w n = decide (2 ^ w ≤ n) := by
  have hpow : (2 ^ w : Int) ≤ n ↔ 2 ^ w ≤ n := by exact_mod_cast Iff.rfl
  simp [unsignedOverflow, hpow]

/-- A difference of two numbers of `w` bits never reaches 2^w, so only a borrow is left. -/
theorem unsignedOverflow_sub {w : Nat} (a b : BitVec w) :
    unsignedOverflow w (a.toNat - b.toNat) = true ↔ a.toNat < b.toNat := by
  have ha : (a.toNat : Int) < 2 ^ w := by exact_mod_cast a.isLt
  rw [unsignedOverflow_iff]
  omega

section
variable {w : Nat} (a b : BitVec w)

theorem signedOverflow_add : signedOverflow w (a.toInt + b.toInt) = BitVec.saddOverflow a b := by
  simp [signedOverflow, BitVec.saddOverflow, Bool.or_comm]

theorem signedOverflow_sub : signedOverflow w (a.toInt - b.toInt) = BitVec.ssubOverflow a b := by
  simp [signedOverflow, BitVec.ssubOverflow, Bool.or_comm]

theorem signedOverflow_mul : signedOverflow w (a.toInt * b.toInt) = BitVec.smulOverflow a b := by
  simp [signedOverflow, BitVec.smulOverflow, Bool.or_comm]

end

/-- Settles O43: an event of class add_sub has its two flags as its only conditions, and each flag is the
overflow of an exact result. -/
theorem addSubConditions : Obligations.AddSubConditions := by
  intro w a b cin
  obtain ⟨hcy, hov, hrest⟩ := conditions_addSub_bits (e := addEvent a b cin) rfl
  obtain ⟨-, hov0, -⟩ := conditions_addSub_bits (e := addEvent a b false) rfl
  obtain ⟨hborrow, hovSub, hrestSub⟩ := conditions_addSub_bits (e := subEvent a b) rfl
  refine ⟨?_, ?_, ?_, ?_, ?_, fun j hj => ⟨hrest j hj, hrestSub j hj⟩⟩
  · rw [hcy]
    have hsum : (addEvent a b cin).cy = unsignedOverflow w ((a.toNat + b.toNat + cin.toNat : Nat) : Int) := by
      simp [addEvent]
    rw [hsum, unsignedOverflow_natCast, decide_eq_true_iff]
  · rw [hov]
    exact signedOverflow_iff
  · rw [hov0, ← signedOverflow_add]
    simp [addEvent]
  · rw [hborrow]
    exact unsignedOverflow_sub a b
  · rw [hovSub]
    exact signedOverflow_sub a b

/-- Settles O44: the conditions of each class, with the flags of its event as overflows of the exact
result. -/
theorem mulDivMacConditions : Obligations.MulDivMacConditions := by
  intro w a b cy ov pu ps
  refine ⟨?_, ?_, ?_, ?_⟩
  · have hcarry : (mulEvent a b cy ov).cy = (cy && decide (2 ^ w ≤ a.toNat * b.toNat)) := by
      rw [← unsignedOverflow_natCast, Nat.cast_mul]
      rfl
    rw [← signedOverflow_mul, ← hcarry]
    exact conditions_eq (mulEvent a b cy ov)
  · rw [conditions_eq]
    simp [divSignedEvent]
  · rw [conditions_eq]
    simp [divUnsignedEvent]
  · rw [conditions_eq]
    simp [macEvent, unsignedOverflow, signedOverflow]

/-! ### An event that raises nothing (R143, R145) -/

/-- A destination that the statements on arithmetic events speak of exists. -/
theorem State.DestinationWritable.registers {s : State} {x : ArithStep} (h : s.DestinationWritable x) :
    x.dest.all (hasGpr s.cfg) = true :=
  (Option.all_eq_true ..).mpr fun d hd => (h d hd).1

/-- Where `R0_POLICY` does not stand against it, a destination takes its value. -/
theorem State.exists_writeResult {s : State} {dest : Option RegNo}
    (h : ∀ d, dest = some d → d = 0#5 → s.cfg.policies.r0 ≠ .refuse) (v : Word) :
    ∃ w, s.writeResult dest v = some w := by
  cases dest with
  | none => exact ⟨s, rfl⟩
  | some d =>
    by_cases hd : d = 0#5
    · cases hp : s.cfg.policies.r0 with
      | refuse => exact absurd hp (h d rfl hd)
      | write => exact ⟨s.writeGpr d v, by simp [State.writeResult, State.writeDest, hd, hp]⟩
      | discard => exact ⟨s, by simp [State.writeResult, State.writeDest, hd, hp]⟩
    · exact ⟨_, State.writeDest_of_ne s v hd⟩

/-- The same for the destination of a raising event, whatever `RESULT_ON_EXC` puts there. -/
theorem State.exists_resultOnExc {s : State} {x : ArithStep}
    (h : ∀ d, x.dest = some d → d = 0#5 → s.cfg.policies.r0 ≠ .refuse) :
    ∃ w, s.resultOnExc x = some w := by
  unfold State.resultOnExc
  split
  · exact State.exists_writeResult h _
  · exact ⟨s, rfl⟩
  · exact State.exists_writeResult (s := s.withDraws (s.draws + 1)) h _

/-- Everything an event that completes leaves: its flags, the result, and control at the next
instruction. -/
theorem arithCompleted_of_writeResult {s w : State} {x : ArithStep} {rest : List Input}
    (h : ((s.withAgenda rest).withArithFlags x).writeResult x.dest x.result = some w) :
    ArithCompleted s x rest w.advance := by
  obtain ⟨hother, hdest⟩ := State.writeResult_readGpr h
  obtain ⟨g, rfl⟩ := State.writeResult_frame h
  have hflags := State.withArithFlags_srFlag s x
  exact {
    block := ⟨rfl, rfl, rfl⟩
    saved := ⟨rfl, rfl, rfl⟩
    memory := fun _ => rfl
    control := ⟨rfl, rfl⟩
    cfg := rfl
    agenda := rfl
    draws := rfl
    result := fun d hd =>
      have ⟨hdiscard, hwrite⟩ := hdest d hd
      ⟨fun r hr => hother r (by simpa [hd] using hr.symm), hwrite, hdiscard⟩
    noResult := fun hd r => hother r (by simp [hd])
    carry := hflags srCY (by decide)
    overflow := hflags srOV (by decide)
    otherFlags := fun j hj hcy hov hfo =>
      (hflags j hj).trans (by rw [if_neg hfo, if_neg hov, if_neg hcy]) }

section
variable {s : State} {x : ArithStep} {rest : List Input} (hc : configDefect s.cfg = none)
  (ha : s.agenda = .arith x :: rest) (hdest : s.DestinationWritable x)
include hc ha hdest

/-- With OVE clear, or no enabled condition among those that occurred, the event completes. -/
theorem step_arithCompleted (h : s.srFlag srOVE = false ∨ s.arithHit x.event = some 0#7) :
    ∃ t, step s = .next t ∧ ArithCompleted s x rest t := by
  obtain ⟨w, hw⟩ := State.exists_writeResult (s := (s.withAgenda rest).withArithFlags x)
    (fun d hd => (hdest d hd).2) x.result
  refine ⟨w.advance, ?_, arithCompleted_of_writeResult hw⟩
  rw [step_of_agenda hc ha, runInput, arithStep_of_nothing_raised (s := s.withAgenda rest) hdest.registers h]
  simp [arithComplete, hw]

/-! ### An event that raises (R143 to R145) -/

/-- With OVE set and a hit, the event raises, and AESR, where there is one, gains the hit. -/
theorem step_arithRaised {hit : BitVec 7} (hove : s.srFlag srOVE = true)
    (hhit : s.arithHit x.event = some hit) (h0 : hit ≠ 0#7) :
    ∃ t, step s = .next t ∧ t.aesr = (if present s.cfg .aesr then s.aesr ||| hit else s.aesr) ∧
      ArithRaised s x rest t := by
  obtain ⟨w, hw⟩ := State.exists_resultOnExc
    (s := ((s.withAgenda rest).withArithFlags x).recordHit hit) (x := x)
    (fun d hd => by rw [State.recordHit_cfg]; exact (hdest d hd).2)
  refine ⟨w.raise .range none, ?_, ?_, arithRaised_of_resultOnExc hw⟩
  · rw [step_of_agenda hc ha, runInput]
    exact (arithStep_of_hit (s := s.withAgenda rest) hdest.registers hove hhit h0).trans
      (arithRaise_of_resultOnExc hw)
  · obtain ⟨g, n, rfl⟩ := State.resultOnExc_cases hw
    rw [State.raise_aesr]
    exact State.recordHit_aesr ((s.withAgenda rest).withArithFlags x) hit

end

/-! ### The enable bits of the test, with AECR and without it (R143, R147) -/

/-- One flag announces AECR and AESR together (R68). -/
theorem present_aesr_eq_aecr (c : Config) : present c .aesr = present c .aecr := rfl

/-- The test of an arithmetic event where AECR is absent (R147). -/
theorem State.arithHit_of_no_aecr {s : State} (hp : present s.cfg .aecr = false) (e : ArithEvent) :
    s.arithHit e = s.cfg.policies.noAecrMask.map (conditions e &&& ·) := by
  simp [State.arithHit, State.arithMask, hp]

/-- Settles O45: with AECR the test of `step_arithCompleted` is the one against AECR. -/
theorem noEnabledConditionRaisesNothing : Obligations.NoEnabledConditionRaisesNothing := by
  intro s x rest hc ha hp hdest h
  exact step_arithCompleted hc ha hdest
    (h.imp_right fun h0 => by rw [State.arithHit_of_aecr hp, h0])

/-- Settles O46: AESR is there to record the hit, being announced with AECR. -/
theorem enabledConditionRaisesAndIsRecorded : Obligations.EnabledConditionRaisesAndIsRecorded := by
  intro s x rest hc ha hp hdest hove h0
  obtain ⟨t, hstep, haesr, hraised⟩ :=
    step_arithRaised hc ha hdest hove (State.arithHit_of_aecr hp x.event) h0
  rw [present_aesr_eq_aecr, hp, if_pos rfl] at haesr
  exact ⟨t, hstep, haesr, hraised⟩

/-- Settles O47: `NO_AECR_MASK` stands in AECR's place, and without AECR there is no AESR to record in. -/
theorem arithmeticWithoutAecr : Obligations.ArithmeticWithoutAecr := by
  intro s x rest hc ha hp hdest
  have hhit := State.arithHit_of_no_aecr hp x.event
  refine ⟨fun hove => step_arithCompleted hc ha hdest (.inl hove), fun hove hmask => ?_,
    fun hove m hmask => ⟨fun h0 => ?_, fun h0 => ?_⟩⟩
  · have hnone : s.arithHit x.event = none := by rw [hhit, hmask, Option.map_none]
    rw [step_of_agenda hc ha, runInput]
    exact arithStep_of_no_mask hdest.registers hove hnone
  · exact step_arithCompleted hc ha hdest (.inr (by rw [hhit, hmask, Option.map_some, h0]))
  · obtain ⟨t, hstep, haesr, hraised⟩ :=
      step_arithRaised hc ha hdest hove (by rw [hhit, hmask, Option.map_some]) h0
    rw [present_aesr_eq_aecr, hp, if_neg Bool.false_ne_true] at haesr
    exact ⟨t, hstep, haesr, hraised⟩

end Sys2Proof.Machine
end

section
/-! PROOFS. What the steps do to AESR (O38, O48) and to the mode (O40). -/

namespace Sys2Proof.Machine

/-! ### AESR over the steps (R144, R162) -/

/-- Settles O38: of the steps that write AESR, the raising event clears no bit of it (`step_cases`), and the
store and reset are the two excepted. -/
theorem hardwareOnlySetsAesr : Obligations.HardwareOnlySetsAesr := by
  intro s t h hreset hwrites j hj
  obtain ⟨-, -, -, hcase⟩ := step_cases h
  rcases hcase with ⟨hi, -⟩ | ⟨e, ea, x, m, g, n, rfl, -, hm⟩ | ⟨-, -, rfl⟩ |
    ⟨target, -, ⟨-, rfl⟩ | ⟨-, rfl⟩⟩ | ⟨x, g, n, rfl, -⟩ | ⟨r, v, hnext, hstore⟩
  · -- reset
    exact absurd hi hreset
  · -- exception
    rw [State.raise_aesr]
    rcases hm with rfl | ⟨-, hkeep⟩
    · exact hj
    · exact hkeep j hj
  · -- return from exception
    exact hj
  · -- taken jump, no delay slots
    exact hj
  · -- taken jump into a delay slot
    exact hj
  · -- control advances
    exact hj
  · -- store to an SPR
    rcases sprStore_next hstore with ⟨-, rfl⟩ | ⟨-, rfl⟩ | ⟨rfl, -⟩ | ⟨-, -, rfl⟩
    · exact hj
    · exact hj
    · exact absurd hnext hwrites
    · exact hj

/-- A raising event where AECR is present ORs its enabled conditions into AESR, and leaves AECR, the
implementation and the rest of the agenda. -/
theorem step_raising_event {s t : State} {x : ArithStep} {rest : List Input}
    (hp : present s.cfg .aecr = true) (ha : s.agenda = .arith x :: rest) (hr : s.NextRaises)
    (h : step s = .next t) :
    t.aesr = s.aesr ||| (conditions x.event &&& s.aecr) ∧ t.aecr = s.aecr ∧ t.cfg = s.cfg ∧
      t.agenda = rest := by
  obtain ⟨y, hit, hy, hove, hhit, h0⟩ := hr
  have hyx : y = x := by simpa [State.nextInput, ha, eq_comm] using hy
  subst hyx
  obtain ⟨hc, -⟩ := step_next h
  rw [step_of_agenda hc ha, runInput] at h
  rcases arithStep_next h with ⟨-, -, -, hnone⟩ | ⟨hit', w, -, hhit', -, hw, rfl⟩
  · have hnone' : s.srFlag srOVE = false ∨ s.arithHit y.event = some 0#7 := hnone
    rcases hnone' with hno | hno
    · rw [hove] at hno
      cases hno
    · rw [hhit] at hno
      exact absurd (Option.some.inj hno) h0
  · have hhit'' : s.arithHit y.event = some hit' := hhit'
    obtain rfl : conditions y.event &&& s.aecr = hit' :=
      Option.some.inj ((State.arithHit_of_aecr hp y.event).symm.trans hhit'')
    have hraised := arithRaised_of_resultOnExc hw
    obtain ⟨g, n, rfl⟩ := State.resultOnExc_cases hw
    refine ⟨?_, hraised.aecr, hraised.cfg, hraised.agenda⟩
    have haesr := State.recordHit_aesr ((s.withAgenda rest).withArithFlags y) (conditions y.event &&& s.aecr)
    rw [State.raise_aesr]
    exact haesr.trans (if_pos hp)

/-- Settles O48: the second event is tested against the same AECR and recorded over what the first one
left. -/
theorem aesrAccumulatesCauses : Obligations.AesrAccumulatesCauses := by
  intro s t u x y rest hp ha hr h hr' h'
  obtain ⟨haesr, haecr, hcfg, hagenda⟩ := step_raising_event hp ha hr h
  obtain ⟨haesr', -⟩ := step_raising_event (by rw [hcfg]; exact hp) hagenda hr' h'
  rw [haesr', haesr, haecr]

/-! ### The mode over the steps (R170) -/

/-- An SR that is the old one but for an arithmetic instruction's flags has the same SM and EPH. -/
theorem mode_of_kept_or_withArithFlags {s : State} {x : Word}
    (hx : x = s.sr ∨ ∃ y, x = (s.withArithFlags y).sr) :
    x.getLsbD srSM = s.supervisor ∧ x.getLsbD srEPH = s.srFlag srEPH := by
  rcases hx with rfl | ⟨y, rfl⟩
  · exact ⟨rfl, rfl⟩
  · obtain ⟨hsm, heph, -⟩ := State.withArithFlags_mode s y
    exact ⟨hsm, heph⟩

/-- Every step but an entry, a return or reset keeps the mode. -/
theorem step_mode {s t : State} (h : step s = .next t) :
    s.nextInput = .reset ∨ (t.supervisor = true ∧ ∃ e, t.pc = s.vectorAddress e) ∨
      (s.nextInput = .exceptionReturn ∧ s.supervisor = true) ∨ t.supervisor = s.supervisor := by
  obtain ⟨-, -, -, hcase⟩ := step_cases h
  rcases hcase with ⟨hi, -⟩ | ⟨e, ea, x, m, g, n, rfl, hx, -⟩ | ⟨hi, hs, -⟩ |
    ⟨target, -, ⟨-, rfl⟩ | ⟨-, rfl⟩⟩ | ⟨x, g, n, rfl, hx⟩ | ⟨r, v, -, hstore⟩
  · -- reset
    exact .inl hi
  · -- exception
    refine .inr (.inl ⟨State.raise_supervisor _ e ea, e, ?_⟩)
    obtain ⟨-, heph⟩ := mode_of_kept_or_withArithFlags hx
    rw [State.raise_pc]
    simp only [State.vectorAddress, State.srFlag] at heph ⊢
    rw [heph]
  · -- return from exception
    exact .inr (.inr (.inl ⟨hi, hs⟩))
  · -- taken jump, no delay slots
    exact .inr (.inr (.inr rfl))
  · -- taken jump into a delay slot
    exact .inr (.inr (.inr rfl))
  · -- control advances
    exact .inr (.inr (.inr (mode_of_kept_or_withArithFlags hx).1))
  · -- store to an SPR
    obtain ⟨hsr, -⟩ := sprStore_next_control hstore
    exact .inr (.inr (.inr (by rw [State.supervisor, State.srFlag, hsr]; rfl)))

/-- Settles O40: the four kinds of step that `step_mode` tells apart. -/
theorem modeChangesOnlyByExceptionReturnOrReset : Obligations.ModeChangesOnlyByExceptionReturnOrReset := by
  intro s t h
  rcases step_mode h with hi | ⟨hup, hvector⟩ | ⟨hi, hs⟩ | hsame
  · exact ⟨fun _ _ => .inl hi, fun _ _ => .inl hi⟩
  · exact ⟨fun _ _ => .inr hvector, fun _ hdown => by simp [hup] at hdown⟩
  · exact ⟨fun huser _ => by simp [hs] at huser, fun _ _ => .inr hi⟩
  · exact ⟨fun huser hup => by simp [hsame, huser] at hup, fun hs hdown => by simp [hsame, hs] at hdown⟩

end Sys2Proof.Machine
end

section
/-! PROOFS. Where an exception goes (O49), what the family's entry saves and switches (O51), and the return
from exception (O52, O53). -/

namespace Sys2Proof.Machine

/-! ### The vector address (R150) -/

theorem extractLsb'_vectorBase_default {c : Config} (h : c.ephOffset = defaultEphOffset) (evba : BitVec 19)
    (eph : Bool) : (vectorBase c evba eph).extractLsb' 0 13 = 0#13 := by
  have hevba : (if present c .evbar then evba ++ 0#13 else 0#32).extractLsb' 0 13 = 0#13 := by
    split
    · exact BitVec.extractLsb'_append_eq_right
    · rfl
  have heph : (if eph then defaultEphOffset else 0#32).extractLsb' 0 13 = 0#13 := by
    cases eph <;> rfl
  unfold vectorBase
  rw [h, BitVec.extractLsb'_or]
  exact (congrArg₂ (· ||| ·) hevba heph).trans (BitVec.zero_or ..)

theorem extractLsb'_offsetOf_default (e : ExceptionKind) :
    (offsetOf defaultVectorOffsets e).extractLsb' 13 19 = 0#19 := by
  cases e <;> rfl

/-- A word with its low 13 bits 0 and one with all the others 0 share no bit, so nothing carries. -/
theorem word_add_eq_or {a b : Word} (ha : a.extractLsb' 0 13 = 0#13) (hb : b.extractLsb' 13 19 = 0#19) :
    a + b = a ||| b := by
  apply BitVec.add_eq_or_of_and_eq_zero
  apply BitVec.eq_of_getLsbD_eq
  intro i hi
  rw [BitVec.getLsbD_and, BitVec.getLsbD_zero]
  by_cases hlow : i < 13
  · have hbit := congrArg (·.getLsbD i) ha
    simp only [BitVec.getLsbD_extractLsb', BitVec.getLsbD_zero, hlow, decide_true, Bool.true_and,
      Nat.zero_add] at hbit
    rw [hbit, Bool.false_and]
  · have hbit := congrArg (·.getLsbD (i - 13)) hb
    have hsum : 13 + (i - 13) = i := by omega
    have hlt : i - 13 < 19 := by omega
    simp only [BitVec.getLsbD_extractLsb', BitVec.getLsbD_zero, hlt, decide_true, Bool.true_and,
      hsum] at hbit
    rw [hbit, Bool.and_false]

/-- Settles O49: the formula is `vectorAddress`'s, which `State.raise_pc` says an entry goes to. -/
theorem vectorAddressIsBasePlusOffset : Obligations.VectorAddressIsBasePlusOffset := by
  intro s e
  refine ⟨rfl, fun ea => State.raise_pc s e ea, fun heph hoff => ?_⟩
  have hbase := extractLsb'_vectorBase_default heph s.evba (s.srFlag srEPH)
  refine ⟨hbase, ?_⟩
  rw [State.vectorAddress, Machine.vectorAddress, hoff]
  exact word_add_eq_or hbase (extractLsb'_offsetOf_default e)

/-! ### The family's entry (R160) -/

theorem State.returnAddress_eq (s : State) :
    s.returnAddress = if s.delaySlot = none then s.pc else s.pc - 4 := by
  unfold State.returnAddress
  cases s.delaySlot <;> simp

section
variable (s : State) (e : ExceptionKind) (ea : Option Word) {co : Bool}
  (h : s.cfg.policies.trapEntry = .family co)
include h

/-- One bit of SR after the family's entry. -/
theorem State.raise_srFlag_family {j : Nat} (hj : j < 32) :
    (s.raise e ea).srFlag j =
      if j = srFO then true
      else if s.delaySlot.isSome && j == srDSX then true
      else if co && j == srOVE then false
      else if j = srSM then true
      else if j = srTEE ∨ j = srIEE ∨ j = srDME ∨ j = srIME then false
      else s.srFlag j := by
  rw [State.raise_family s e ea h]
  exact entrySr_getLsbD co s.delaySlot.isSome s.sr j hj

/-- The enables that the family's entry clears. -/
theorem State.raise_cleared_family {j : Nat} (hj : j ∈ [srTEE, srIEE, srDME, srIME]) :
    (s.raise e ea).srFlag j = false := by
  have hothers : ∀ j ∈ [srTEE, srIEE, srDME, srIME],
      j < 32 ∧ j ≠ srFO ∧ j ≠ srDSX ∧ j ≠ srOVE ∧ j ≠ srSM := by decide
  obtain ⟨hlt, hfo, hdsx, hove, hsm⟩ := hothers j hj
  rw [State.raise_srFlag_family s e ea h hlt]
  simp only [List.mem_cons, List.not_mem_nil, or_false] at hj
  simp [hfo, hdsx, hove, hsm, hj]

/-- The bits of SR that the family's entry keeps. -/
theorem State.raise_kept_family {j : Nat} (hj : j < 32) (hset : j ∉ [srFO, srSM, srTEE, srIEE, srDME, srIME])
    (hove : j = srOVE → co = false) (hdsx : j = srDSX → s.delaySlot = none) :
    (s.raise e ea).srFlag j = s.srFlag j := by
  have hgate : (co && j == srOVE) = false := by
    by_cases hj : j = srOVE
    · simp [hove hj]
    · simp [hj]
  have hslot : (s.delaySlot.isSome && j == srDSX) = false := by
    by_cases hj : j = srDSX
    · simp [hdsx hj]
    · simp [hj]
  simp only [List.mem_cons, List.not_mem_nil, or_false, not_or] at hset
  obtain ⟨hfo, hsm, hcleared⟩ := hset
  rw [State.raise_srFlag_family s e ea h hj, hgate, hslot]
  simp [hfo, hsm, hcleared]

/-- The registers that the family's entry saves. -/
theorem State.raise_saved_family :
    (s.raise e ea).epcr0 = (if s.delaySlot = none then s.pc else s.pc - 4) ∧
      (s.raise e ea).eear0 = ea.getD s.eear0 ∧ (s.raise e ea).esr0 = s.sr := by
  rw [State.raise_family s e ea h]
  exact ⟨s.returnAddress_eq, rfl, rfl⟩

/-- What the family's entry leaves alone. -/
theorem State.raise_frame_family :
    SameGprs s (s.raise e ea) ∧ SameBlock s (s.raise e ea) ∧ SameMemory s (s.raise e ea) ∧
      SameRun s (s.raise e ea) := by
  rw [State.raise_family s e ea h]
  exact ⟨fun _ => rfl, ⟨rfl, rfl, rfl⟩, fun _ => rfl, rfl, rfl⟩

end

/-- Settles O51: each bit of SR is set, cleared or kept. -/
theorem familyEntrySavesAndSwitches : Obligations.FamilyEntrySavesAndSwitches := by
  intro s e ea co hco hfo
  have hcleared {j : Nat} := State.raise_cleared_family s e ea hco (j := j)
  have hkept {j : Nat} := State.raise_kept_family s e ea hco (j := j)
  obtain ⟨hepcr, heear, hesr⟩ := State.raise_saved_family s e ea hco
  obtain ⟨hgprs, hblock, hmem, hrun⟩ := State.raise_frame_family s e ea hco
  refine ⟨State.raise_pc s e ea, State.raise_delaySlot s e ea, hepcr, heear, hesr, hgprs, hblock, hmem, hrun,
    State.raise_supervisor s e ea, hcleared (by decide), hcleared (by decide), hcleared (by decide),
    hcleared (by decide), ?_, ?_, ?_, ?_, fun j hj hnamed => ?_⟩
  · -- OVE, cleared
    rintro rfl
    rw [State.raise_srFlag_family s e ea hco (by decide)]
    simp [srFO, srDSX, srOVE]
  · -- OVE, kept
    exact fun hno => hkept (by decide) (by decide) (fun _ => hno) (fun hj => absurd hj (by decide))
  · -- DSX, set
    intro hslot
    rw [State.raise_srFlag_family s e ea hco (by decide)]
    simp [srFO, Option.isSome_iff_ne_none, hslot]
  · -- DSX, kept
    exact fun hslot => hkept (by decide) (by decide) (fun hj => absurd hj (by decide)) (fun _ => hslot)
  · -- every other bit; FO reads 1 before and after
    by_cases hj15 : j = srFO
    · rw [hj15, hfo]
      exact State.raise_fo s e ea
    · simp only [List.mem_cons, List.not_mem_nil, or_false, not_or] at hnamed
      obtain ⟨hsm, htee, hiee, hdme, hime, hove, hdsx⟩ := hnamed
      exact hkept hj (by simp [hj15, hsm, htee, hiee, hdme, hime]) (absurd · hove) (absurd · hdsx)

/-! ### The return (R161) -/

/-- A return outside a delay slot in supervisor mode. -/
theorem returnStep_of_supervisor {s : State} (hd : s.delaySlot = none) (hs : s.supervisor = true) :
    returnStep s = .next s.returnFromException := by
  simp [returnStep, hd, hs]

theorem returnStep_of_user {s : State} (hd : s.delaySlot = none) (hs : s.supervisor = false) :
    returnStep s = .refused .returnInUserMode := by
  simp [returnStep, hd, hs]

theorem returnStep_of_delaySlot {s : State} (hd : s.delaySlot ≠ none) :
    returnStep s = .refused .transferInDelaySlot := by
  simp [returnStep, Option.isSome_iff_ne_none, hd]

/-- Settles O52: an entry leaves supervisor mode and no delay slot, where a return completes, and takes SR
and pc from what the entry saved. -/
theorem returnUndoesEntry : Obligations.ReturnUndoesEntry := by
  intro s e ea co hco hfo
  obtain ⟨hepcr, -, hesr⟩ := State.raise_saved_family s e ea hco
  obtain ⟨hgprs, hblock, hmem, hrun⟩ := State.raise_frame_family s e ea hco
  refine ⟨_, returnStep_of_supervisor (State.raise_delaySlot s e ea) (State.raise_supervisor s e ea), ?_,
    hepcr, rfl, hgprs, hblock, hmem, hrun⟩
  rw [State.returnFromException_sr, hesr]
  exact fixSr_of_fo s.sr hfo

/-- Settles O53: the three cases that `returnStep` tells apart, on the state with the agenda's head taken
off. -/
theorem exceptionReturnStep : Obligations.ExceptionReturnStep := by
  intro s rest hc ha
  rw [step_of_agenda hc ha, runInput]
  refine ⟨fun hd hs => ?_, returnStep_of_user (s := s.withAgenda rest),
    returnStep_of_delaySlot (s := s.withAgenda rest)⟩
  exact ⟨_, returnStep_of_supervisor (s := s.withAgenda rest) hd hs, rfl, rfl,
    fun j hj hfo => fixSr_getLsbD s.esr0 j hj hfo, ⟨rfl, rfl, rfl⟩, fun _ => rfl, ⟨rfl, rfl, rfl⟩,
    fun _ => rfl, rfl, rfl⟩

end Sys2Proof.Machine
end

section
/-! PROOFS. What every step keeps: the constants (O35) and, but for their named writers, EVBA, AECR and AESR
(O37); a taken jump and its delay slot (O54); reset of a running machine (O55, O56) and the state after reset
(O57). -/

namespace Sys2Proof.Machine

/-! ### The writers of EVBA, AECR and AESR (R196) -/

/-- A store to a present SPR changes no field of the block but the addressed register's. -/
theorem sprStore_next_block {s t : State} {r : Spr} {v : Word} (h : sprStore s r v = .next t) :
    (t.evba ≠ s.evba → r = .evbar) ∧ (t.aecr ≠ s.aecr → r = .aecr) ∧ (t.aesr ≠ s.aesr → r = .aesr) := by
  rcases sprStore_next h with ⟨rfl, rfl⟩ | ⟨rfl, rfl⟩ | ⟨rfl, rfl⟩ | ⟨-, -, rfl⟩
  · exact ⟨fun _ => rfl, fun hne => absurd rfl hne, fun hne => absurd rfl hne⟩
  · exact ⟨fun hne => absurd rfl hne, fun _ => rfl, fun hne => absurd rfl hne⟩
  · exact ⟨fun hne => absurd rfl hne, fun hne => absurd rfl hne, fun _ => rfl⟩
  · exact ⟨fun hne => absurd rfl hne, fun hne => absurd rfl hne, fun hne => absurd rfl hne⟩

/-- What one step can do to EVBA, AECR and AESR: reset; an `l.mtspr` that moves at most the register it
addresses; an arithmetic event that raises, which moves AESR alone; or nothing. -/
theorem step_block_cases {s t : State} (h : step s = .next t) :
    s.nextInput = .reset ∨
      (∃ r, s.NextWrites r ∧ (t.evba ≠ s.evba → r = .evbar) ∧ (t.aecr ≠ s.aecr → r = .aecr) ∧
        (t.aesr ≠ s.aesr → r = .aesr)) ∨
      (s.NextRaises ∧ t.evba = s.evba ∧ t.aecr = s.aecr) ∨ SameBlock s t := by
  obtain ⟨-, -, -, hcase⟩ := step_cases h
  rcases hcase with ⟨hi, -⟩ | ⟨e, ea, x, m, g, n, rfl, -, hm⟩ | ⟨-, -, rfl⟩ |
    ⟨target, -, ⟨-, rfl⟩ | ⟨-, rfl⟩⟩ | ⟨x, g, n, rfl, -⟩ | ⟨r, v, hnext, hstore⟩
  · -- reset
    exact .inl hi
  · -- exception
    rcases hm with rfl | ⟨hraises, -⟩
    · exact .inr (.inr (.inr ⟨State.raise_evba _ e ea, State.raise_aecr _ e ea, State.raise_aesr _ e ea⟩))
    · exact .inr (.inr (.inl ⟨hraises, State.raise_evba _ e ea, State.raise_aecr _ e ea⟩))
  · -- return from exception
    exact .inr (.inr (.inr ⟨rfl, rfl, rfl⟩))
  · -- taken jump, no delay slots
    exact .inr (.inr (.inr ⟨rfl, rfl, rfl⟩))
  · -- taken jump into a delay slot
    exact .inr (.inr (.inr ⟨rfl, rfl, rfl⟩))
  · -- control advances
    exact .inr (.inr (.inr ⟨rfl, rfl, rfl⟩))
  · -- store to an SPR
    exact .inr (.inl ⟨r, hnext, sprStore_next_block (s := s.withAgenda s.agenda.tail) hstore⟩)

/-- Settles O37: `step_block_cases` names the writers, and a store reaches the register it names alone. -/
theorem onlyWritersOfTheBlock : Obligations.OnlyWritersOfTheBlock := by
  intro s t h
  obtain ⟨-, hcfg, -, -⟩ := step_cases h
  rcases step_block_cases h with hi | ⟨r, hnext, hevba, haecr, haesr⟩ | ⟨hraises, hevba, haecr⟩ |
    ⟨hevba, haecr, haesr⟩
  · exact ⟨fun _ => .inl hi, fun _ => .inl hi, fun _ => .inl hi, hcfg⟩
  · exact ⟨fun hne => .inr (hevba hne ▸ hnext), fun hne => .inr (haecr hne ▸ hnext),
      fun hne => .inr (.inl (haesr hne ▸ hnext)), hcfg⟩
  · exact ⟨fun hne => absurd hevba hne, fun hne => absurd haecr hne, fun _ => .inr (.inr hraises), hcfg⟩
  · exact ⟨fun hne => absurd hevba hne, fun hne => absurd haecr hne, fun hne => absurd haesr hne, hcfg⟩

/-! ### The constants (R11, R180) -/

/-- The image of a constant register is the implementation's alone. -/
theorem State.image_of_readOnly {s t : State} (hcfg : t.cfg = s.cfg) {r : Spr} (hr : readOnly r = true) :
    t.image r = s.image r := by
  cases r with
  | evbar | aecr | aesr | isr i => cases hr
  | _ => simp only [State.image, hcfg]

/-- Settles O35: no step changes the implementation (`step_cases`), in which the constants stand. -/
theorem constantsNeverChange : Obligations.ConstantsNeverChange := by
  intro s t h
  obtain ⟨-, hcfg, -, -⟩ := step_cases h
  exact ⟨hcfg, fun r hr => State.image_of_readOnly hcfg hr⟩

/-! ### A taken jump and its delay slot (R190) -/

section
variable {s : State} (target : Word)

theorem jumpStep_of_delaySlot (hd : s.delaySlot ≠ none) :
    jumpStep target s = .refused .transferInDelaySlot := by
  simp [jumpStep, Option.isSome_iff_ne_none, hd]

theorem jumpStep_of_nd (hd : s.delaySlot = none) (hnd : s.cfg.cpucfgr.nd = true) :
    jumpStep target s = .next (s.goTo target) := by
  simp [jumpStep, hd, hnd]

theorem jumpStep_of_not_nd (hd : s.delaySlot = none) (hnd : s.cfg.cpucfgr.nd = false) :
    jumpStep target s = .next (s.enterSlot target) := by
  simp [jumpStep, hd, hnd]

end

/-- An access that completes in supervisor mode leaves control at the next word, or at the jump's target. -/
theorem exec_next_supervisor_advanced {i : Instr} {s t : State} (hs : s.supervisor = true)
    (h : exec i s = .next t) : Advanced s t := by
  obtain ⟨hmfspr, hmtspr, -⟩ := sprAccessFrame
  cases i with
  | mfspr d a k =>
    obtain ⟨-, -, -, -, -, -, hadv⟩ := hmfspr s t d a k hs h
    exact hadv
  | mtspr a b k =>
    obtain ⟨-, -, -, -, -, hadv, -⟩ := hmtspr s t a b k hs h
    exact hadv

/-- Settles O54: with ND = 0 the target stands in `delaySlot`, from where `exec_next_supervisor_advanced`
takes the next pc. -/
theorem jumpSlotTarget : Obligations.JumpSlotTarget := by
  intro s target rest hc ha
  rw [step_of_agenda hc ha, runInput]
  refine ⟨fun hd => ?_, jumpStep_of_delaySlot (s := s.withAgenda rest) target⟩
  cases hnd : s.cfg.cpucfgr.nd with
  | true =>
    exact ⟨_, jumpStep_of_nd (s := s.withAgenda rest) target hd hnd, fun _ => rfl, rfl, ⟨rfl, rfl, rfl⟩,
      ⟨rfl, rfl, rfl⟩, fun _ => rfl, rfl, rfl, fun _ => ⟨rfl, rfl⟩, nofun⟩
  | false =>
    exact ⟨_, jumpStep_of_not_nd (s := s.withAgenda rest) target hd hnd, fun _ => rfl, rfl, ⟨rfl, rfl, rfl⟩,
      ⟨rfl, rfl, rfl⟩, fun _ => rfl, rfl, rfl, nofun,
      fun _ => ⟨rfl, fun _ _ hs hexec => exec_next_supervisor_advanced hs hexec⟩⟩

/-! ### Reset of a running machine (R180 to R183) -/

theorem step_of_reset {s : State} {rest : List Input} (hc : configDefect s.cfg = none)
    (ha : s.agenda = .reset :: rest) : step s = .next (s.withAgenda rest).applyReset := by
  rw [step_of_agenda hc ha, runInput]

theorem State.applyReset_sameMemory (s : State) : SameMemory s s.applyReset := by
  intro a
  rw [State.applyReset_mem]

/-- Each general register takes a free value of its own (R183). -/
theorem State.applyReset_readGpr (s : State) (r : RegNo) :
    s.applyReset.readGpr r = Config.draw (s.draws + 5 + r.toNat) := by
  change (drawGprs (s.draws + 5))[r.toNat]'r.isLt = _
  simp only [drawGprs, Vector.getElem_ofFn]

/-- Control is at the reset vector of EVBA and SR as reset leaves them. -/
theorem State.applyReset_pc (s : State) : s.applyReset.pc = s.applyReset.vectorAddress .reset := by
  rw [State.vectorAddress, State.srFlag, State.applyReset_cfg, State.applyReset_evba, State.applyReset_sr]
  simp only [State.applyReset, State.resetFor]

/-- A seven-bit register without a reset value takes the low bits of a free value (R182). -/
theorem resetBits_eq_extractLsb' (given : Option (BitVec 7)) (n : Nat) :
    resetBits given n = given.getD ((Config.draw n).extractLsb' 0 7) := by
  rw [resetBits, BitVec.setWidth_eq_extractLsb' (by decide)]

/-- Settles O55: `State.applyReset`, register by register. -/
theorem resetStep : Obligations.ResetStep := by
  intro s rest hc ha
  have haecr := resetBits_eq_extractLsb' s.cfg.aecrReset s.draws
  have haesr := resetBits_eq_extractLsb' s.cfg.aesrReset (s.draws + 1)
  exact ⟨_, step_of_reset hc ha, State.applyReset_cfg _, State.applyReset_evba _, haecr, haesr, rfl, rfl, rfl,
    State.applyReset_readGpr _, rfl, State.applyReset_delaySlot _, State.applyReset_pc _,
    fixSr_fo s.cfg.srReset, fixSr_getLsbD s.cfg.srReset, State.applyReset_sameMemory _, State.applyReset_agenda _⟩

/-- Without EVBAR and with SR.EPH = 0 the vector base is 0 (R150, R181). -/
theorem State.vectorAddress_of_no_base {s : State} (hp : present s.cfg .evbar = false)
    (heph : s.srFlag srEPH = false) (e : ExceptionKind) :
    s.vectorAddress e = offsetOf s.cfg.vectorOffset e := by
  simp [State.vectorAddress, Machine.vectorAddress, vectorBase, hp, heph]

/-- Settles O56: reset loads EVBA, and without EVBAR `State.vectorAddress_of_no_base` leaves the offset. -/
theorem resetLoadsEvbaReset : Obligations.ResetLoadsEvbaReset := by
  intro s rest hc ha
  refine ⟨_, step_of_reset hc ha, State.applyReset_evba _, fun hp heph e => ?_⟩
  have hcfg : (s.withAgenda rest).applyReset.cfg = s.cfg := State.applyReset_cfg _
  rw [← hcfg] at hp ⊢
  exact State.vectorAddress_of_no_base hp heph e

/-! ### The state after reset (R181, R183, R184) -/

/-- SR after reset of the reference implementation: FO and SM (log 7). -/
theorem State.reset_sr : State.reset.sr = 0x00008001#32 := by decide

/-- Settles O57: the fields of `State.resetFor`, and SR's value for its two bits. -/
theorem resetState : Obligations.ResetState := by
  refine ⟨fun c => ⟨rfl, rfl⟩, State.reset_sr, by decide, ?_, ?_, fun _ => rfl⟩
  · rw [State.supervisor, State.srFlag, State.reset_sr]
    decide
  · rw [State.srFlag, State.reset_sr]
    decide

end Sys2Proof.Machine
end
